-- ==== Sys2Proof/Word.lean ====
section
/-! DEFINITION. The word types of the block and the words of its opcode table. -/

namespace Sys2Proof

/-- An 8-bit byte (`SERIAL`'s bytes, a `KiTable` entry, one byte of a text command). -/
abbrev Byte := BitVec 8

/-- A 32-bit unsigned value: `SERIAL`, `CODE`, `START_CODE`, `STORED` (00_scope.md R6, 10_state.md R21, R29). -/
abbrev U32 := BitVec 32

/-- The 16-bit command word (30_encoding.md R74). -/
abbrev CommandWord := BitVec 16

/-- The 52-bit transmit frame (30_encoding.md R78, R80). -/
abbrev Frame := BitVec 52

/-- The words that spec/opcode_table.json encodes: command words and frames. -/
inductive CodeWord where
  | command (w : CommandWord)
  | frame (f : Frame)
deriving DecidableEq, Repr

end Sys2Proof
end

