-- ==== Sys2Proof/Syntax.lean ====
section
/-! DEFINITION. Commands, buttons, the instructions of spec/opcode_table.json, and the raw inputs the Host delivers. -/

namespace Sys2Proof

/-- The three protocol-defined buttons (30_encoding.md R76): no other value can be named, so the
Controller can issue no other (R77). -/
inductive Button where
  | btnOpen
  | btnStop
  | btnClose
deriving DecidableEq, Repr

/-- The two buttons that drive a full move, the legal values of `REF_BUTTON` (00_scope.md R6) and of
`dirTo` (43_cover_controller.md R171). -/
inductive Travel where
  | toOpen
  | toClosed
deriving DecidableEq, Repr

/-- The decoded command set, exactly these four (30_encoding.md R70). The target is the `ARG` byte of
the command word; well-formed targets are at most 100. -/
inductive Command where
  | openCover
  | stopCover
  | closeCover
  | setPosition (target : Byte)
deriving DecidableEq, Repr

/-- One constructor per row of spec/opcode_table.json. The operands of a frame row are the row's
fields: `r` bits 47:44, `sn` bits 43:40, `e` bits 39:24, `k` bits 23:0 (30_encoding.md R78). -/
inductive Instr where
  | openCover
  | stopCover
  | closeCover
  | setPosition (target : Byte)
  | frameOpen (r sn : BitVec 4) (e : BitVec 16) (k : BitVec 24)
  | frameStop (r sn : BitVec 4) (e : BitVec 16) (k : BitVec 24)
  | frameClose (r sn : BitVec 4) (e : BitVec 16) (k : BitVec 24)
deriving DecidableEq, Repr

/-- What the Host delivers before decoding (43_cover_controller.md R186): a topic and payload pair
as bytes (30_encoding.md R71) or a binary command word (R74). -/
inductive RawCommand where
  | text (topic payload : List Byte)
  | word (w : CommandWord)
deriving DecidableEq, Repr

end Sys2Proof
end

