-- ==== Sys2Proof/WellFormed.lean ====
section
/-! DEFINITION. Which commands and instructions are well formed. -/

namespace Sys2Proof

/-- A decoded command's target is an integer in [0, 100] (30_encoding.md R70, R74). -/
def Command.wf : Command → Bool
  | .openCover => true
  | .stopCover => true
  | .closeCover => true
  | .setPosition t => decide (t.toNat ≤ 100)

/-- `SET_POSITION` needs a legal `ARG`; a frame row leaves all its fields free (spec/opcode_table.json). -/
def Instr.wf : Instr → Bool
  | .openCover => true
  | .stopCover => true
  | .closeCover => true
  | .setPosition t => decide (t.toNat ≤ 100)
  | .frameOpen _ _ _ _ => true
  | .frameStop _ _ _ _ => true
  | .frameClose _ _ _ _ => true

end Sys2Proof
end

