-- ==== Sys2Proof/Decode.lean ====
section
/-! DEFINITION. Decoding of text commands, command words and frames, and the encoder. -/

namespace Sys2Proof

/-- A command as an instruction of the opcode table. -/
def Command.toInstr : Command → Instr
  | .openCover => .openCover
  | .stopCover => .stopCover
  | .closeCover => .closeCover
  | .setPosition t => .setPosition t

/-- The command an instruction is, if its row is a command word. -/
def Instr.command? : Instr → Option Command
  | .openCover => some .openCover
  | .stopCover => some .stopCover
  | .closeCover => some .closeCover
  | .setPosition t => some (.setPosition t)
  | .frameOpen _ _ _ _ => none
  | .frameStop _ _ _ _ => none
  | .frameClose _ _ _ _ => none

/-- `decode16`, total on all 65536 words (30_encoding.md R75): `none` is `InvalidCommandPayload`. -/
def decode16 (w : CommandWord) : Option Command :=
  let kind : Byte := w.extractLsb' 8 8
  let arg : Byte := w.extractLsb' 0 8
  if kind = 0x01#8 ∧ arg = 0#8 then some .openCover
  else if kind = 0x02#8 ∧ arg = 0#8 then some .stopCover
  else if kind = 0x04#8 ∧ arg = 0#8 then some .closeCover
  else if kind = 0x08#8 ∧ arg.toNat ≤ 100 then some (.setPosition arg)
  else none

/-- The ASCII bytes of the topic `set` (30_encoding.md R71). -/
def topicSet : List Byte := [0x73#8, 0x65#8, 0x74#8]

/-- The ASCII bytes of the topic `set_position` (30_encoding.md R71). -/
def topicSetPosition : List Byte :=
  topicSet ++ [0x5F#8, 0x70#8, 0x6F#8, 0x73#8, 0x69#8, 0x74#8, 0x69#8, 0x6F#8, 0x6E#8]

/-- The ASCII bytes of `OPEN` (30_encoding.md R72). -/
def payloadOpen : List Byte := [0x4F#8, 0x50#8, 0x45#8, 0x4E#8]

/-- The ASCII bytes of `STOP` (30_encoding.md R72). -/
def payloadStop : List Byte := [0x53#8, 0x54#8, 0x4F#8, 0x50#8]

/-- The ASCII bytes of `CLOSE` (30_encoding.md R72). -/
def payloadClose : List Byte := [0x43#8, 0x4C#8, 0x4F#8, 0x53#8, 0x45#8]

/-- The value of an ASCII decimal digit. -/
def digitValue (b : Byte) : Option Nat :=
  if 0x30 ≤ b.toNat ∧ b.toNat ≤ 0x39 then some (b.toNat - 0x30) else none

/-- The decimal value of a string of ASCII digits, continuing from `acc`. -/
def decimalValue (acc : Nat) : List Byte → Option Nat
  | [] => some acc
  | b :: bs =>
    match digitValue b with
    | some d => decimalValue (10 * acc + d) bs
    | none => none

/-- A `set_position` payload: one to three ASCII digits of value at most 100 (30_encoding.md R72). -/
def decodeTarget (payload : List Byte) : Option Command :=
  if 1 ≤ payload.length ∧ payload.length ≤ 3 then
    match decimalValue 0 payload with
    | some n => if n ≤ 100 then some (.setPosition (BitVec.ofNat 8 n)) else none
    | none => none
  else none

/-- The text form of a command (30_encoding.md R71, R72); any other pair is invalid (R73). -/
def decodeText (topic payload : List Byte) : Option Command :=
  if topic = topicSet then
    if payload = payloadOpen then some .openCover
    else if payload = payloadStop then some .stopCover
    else if payload = payloadClose then some .closeCover
    else none
  else if topic = topicSetPosition then decodeTarget payload
  else none

/-- `decode(raw)` of command admission (43_cover_controller.md R186). -/
def decodeRaw : RawCommand → Option Command
  | .text topic payload => decodeText topic payload
  | .word w => decode16 w

/-- The frame row of a 52-bit value, told by the inverted button nibble in bits 51:48
(spec/opcode_table.json, 30_encoding.md R79 (a)); the 13 reserved nibbles are no row. -/
def decodeFrame (f : Frame) : Option Instr :=
  let kind : BitVec 4 := f.extractLsb' 48 4
  let r : BitVec 4 := f.extractLsb' 44 4
  let sn : BitVec 4 := f.extractLsb' 40 4
  let e : BitVec 16 := f.extractLsb' 24 16
  let k : BitVec 24 := f.extractLsb' 0 24
  if kind = 0xE#4 then some (.frameOpen r sn e k)
  else if kind = 0xD#4 then some (.frameStop r sn e k)
  else if kind = 0xB#4 then some (.frameClose r sn e k)
  else none

/-- The block's decoder: `none` rejects the word. -/
def decode : CodeWord → Option Instr
  | .command w => (decode16 w).map Command.toInstr
  | .frame f => decodeFrame f

/-- A frame from its button nibble and fields (30_encoding.md R78). -/
def frameWord (kind r sn : BitVec 4) (e : BitVec 16) (k : BitVec 24) : Frame :=
  kind ++ r ++ sn ++ e ++ k

/-- The encoder: the word of an instruction, from the rows of spec/opcode_table.json. -/
def encode : Instr → CodeWord
  | .openCover => .command 0x0100#16
  | .stopCover => .command 0x0200#16
  | .closeCover => .command 0x0400#16
  | .setPosition t => .command (0x08#8 ++ t)
  | .frameOpen r sn e k => .frame (frameWord 0xE#4 r sn e k)
  | .frameStop r sn e k => .frame (frameWord 0xD#4 r sn e k)
  | .frameClose r sn e k => .frame (frameWord 0xB#4 r sn e k)

/-- The decoder on the opcode table's numbering of bits. A command word is 16 bits; a frame is 52
bits, in whole bytes 56, whose bits above 51 must be 0. The block stores neither in memory, so each
word is given to the decoder whole (log 16). -/
def decodeTableWord (nbits w : Nat) : Option Instr :=
  if nbits = 16 then
    if w < 2 ^ 16 then decode (.command (BitVec.ofNat 16 w)) else none
  else if nbits = 52 ∨ nbits = 56 then
    if w < 2 ^ 52 then decode (.frame (BitVec.ofNat 52 w)) else none
  else none

end Sys2Proof
end

