-- ==== Sys2Proof/Config.lean ====
section
/-! DEFINITION. The configuration parameters of 00_scope.md R6, as plain data. -/

namespace Sys2Proof

/-- A read-only table (20_memory.md R50 to R52): its domain is [0, `size`), `entries` lists the
entries that are not 0, by rising index. -/
structure RomTable (w : Nat) where
  size : Nat
  entries : List (Nat × BitVec w)
deriving DecidableEq, Repr

/-- One of the two extremes of the cover position. -/
inductive Extreme where
  | at0
  | at100
deriving DecidableEq, Repr

/-- The read-only configuration registers (10_state.md R20), one field per row of 00_scope.md R6.
`N_ENC` and `N_KI` are the sizes of the two tables. Durations are exact rationals in seconds
(R8). `cmdqCap = none` is an unbounded queue. -/
structure Config where
  serial : U32
  encodeTable : RomTable 16
  kiTable : RomTable 8
  startCode : U32
  tTotal : Rat
  closedPos : Extreme
  refButton : Travel
  startupGuard : Rat
  cmdqCap : Option Nat
  outputChannel : Nat
deriving DecidableEq, Repr

/-- The configuration of `State.reset`: the values of the spec's worked examples (43_cover_controller.md
introduction, 95_test_vectors.md section 3 and P1) and tables of zeros over the whole range of codes.
DESIGN CHOICE, unsafe (log 5, log 6): no statement rests on it. -/
def Config.example : Config where
  serial := 0x12345678#32
  encodeTable := { size := 4294967296, entries := [] }
  kiTable := { size := 256, entries := [] }
  startCode := 0x10#32
  tTotal := 100
  closedPos := .at0
  refButton := .toClosed
  startupGuard := 5
  cmdqCap := none
  outputChannel := 0

end Sys2Proof
end

