-- ==== Sys2Proof/Machine/State.lean ====
section
/-! DEFINITION. The machine's state as plain data, its faults and refusals, and the state after reset. -/

namespace Sys2Proof.Machine

/-- The answer of `Driver.transmit` or `Storage.write`: no third outcome exists (20_memory.md R54,
43_cover_controller.md R173). -/
inductive Answer where
  | ok
  | err
deriving DecidableEq, Repr

/-- One external move (60_exceptions.md R231), in the order the moves happen. `proceed` marks that the
Controller makes its own next move before the environment's next one, so that every order R228 leaves
open has its list (log 1). `unreadable` is a `Storage.read` that answers `None` (42_rolling_code_store.md
R153). -/
inductive EnvEvent where
  | deliver (raw : RawCommand)
  | reconnect
  | restart
  | driver (a : Answer)
  | storage (a : Answer)
  | elapsed
  | unreadable
  | proceed
deriving DecidableEq, Repr

/-- The context of a burst (10_state.md R25). The three contexts of `SET_POSITION` carry its target,
an operand that lives until the command ends (log 4). -/
inductive Ctx where
  | startupRef
  | cmdOpen
  | cmdClose
  | cmdStop
  | spRehome (target : Byte)
  | spDir (target : Byte)
  | spStop (target : Byte)
deriving DecidableEq, Repr

/-- What `BURST` returns (43_cover_controller.md R172). -/
inductive BurstResult where
  | ok
  | invalidCodeIndex (code : U32)
  | driverFailure (code : U32) (rep : Nat)
deriving DecidableEq, Repr

/-- The status `Done` records (60_exceptions.md R220, row 7). -/
inductive Status where
  | ok
  | invalidCodeIndex (code : U32)
  | driverFailure (code : U32) (rep : Nat)
  | cancelled
deriving DecidableEq, Repr

/-- Why the Controller halted (10_state.md R25; the spec names one reason). -/
inductive HaltReason where
  | codeExhausted
deriving DecidableEq, Repr

/-- `PHASE`, the Controller's sequencer register (10_state.md R25). `tx` also holds the frame handed
to the Driver and `persist` the result the burst returns after its `ADVANCE` (43_cover_controller.md
R172): both live across the blocking call (log 4). -/
inductive Phase where
  | reset
  | tx (ctx : Ctx) (button : Button) (rep : Nat) (frame : Frame)
  | persist (ctx : Ctx) (new : U32) (result : BurstResult)
  | wait (target : Byte) (d : Rat)
  | guard
  | idle
  | halted (reason : HaltReason)
deriving DecidableEq, Repr

/-- A line level (30_encoding.md R81). -/
inductive Level where
  | high
  | low
deriving DecidableEq, Repr

/-- A pulse: a level and a whole number of microseconds (30_encoding.md R81). -/
structure Pulse where
  level : Level
  micros : Nat
deriving DecidableEq, Repr

/-- One entry of `TXLOG` (10_state.md R30). -/
structure TxEntry where
  code : U32
  button : Button
  rep : Nat
  train : List Pulse
  answer : Answer
deriving DecidableEq, Repr

/-- The `state` field of a snapshot (30_encoding.md R85). -/
inductive CoverState where
  | opened
  | closed
  | partiallyOpen
deriving DecidableEq, Repr

/-- A published snapshot (30_encoding.md R85). -/
structure Snapshot where
  state : CoverState
  position : BitVec 7
deriving DecidableEq, Repr

/-- What `InvalidCommandPayload` records: the raw input, or the refused command (60_exceptions.md
R220 row 3). -/
inductive RejectedInput where
  | raw (r : RawCommand)
  | refused (c : Command)
deriving DecidableEq, Repr

/-- What `Done` is about: a command, or the startup reference move (60_exceptions.md R220 row 7). -/
inductive Subject where
  | reference
  | command (c : Command)
deriving DecidableEq, Repr

/-- One entry of `EVLOG` (60_exceptions.md R220). `InvalidCodeIndex` and `DriverFailure` are recorded
as the status of `done`. -/
inductive LogEvent where
  | persistenceFailure (new : U32)
  | invalidCommandPayload (input : RejectedInput)
  | codeExhausted (code : U32)
  | ignored (c : Command)
  | done (subject : Subject) (status : Status)
deriving DecidableEq, Repr

/-- Why a step can stop with a fault. -/
inductive Fault where
  /-- Raised by `step` when `PHASE = HALTED(CodeExhausted)` and the environment has no move to make:
  no step of the Controller is enabled (10_state.md R25, 60_exceptions.md R225). Safe. -/
  | codeExhausted
deriving DecidableEq, Repr

/-- Why a step can be refused. -/
inductive Refusal where
  /-- Raised by an arm of `exec` whose instruction has no meaning yet; no arm is one. Safe. -/
  | notModelled (mnemonic : String)
  /-- Raised by `step` when a driver answer comes in a `TX` phase that holds a frame of a reserved
  button: the caller must refuse it (30_encoding.md R77). No run from reset reaches one. Safe. -/
  | reservedFrame
deriving DecidableEq, Repr

/-- The machine's state: 10_state.md R20 to R30, and `env`, the model's own list of external moves
still to come (log 1). -/
structure State where
  cfg : Config
  code : U32
  pos : BitVec 7
  known : Bool
  moving : Bool
  phase : Phase
  cmdq : List Command
  stored : Option U32
  txlog : List TxEntry
  publog : List Snapshot
  evlog : List LogEvent
  env : List EnvEvent
deriving DecidableEq, Repr

/-- The reset value of `POS`: `refPos(REF_BUTTON)` (10_state.md R31, 43_cover_controller.md R170). -/
def resetPos (cfg : Config) : BitVec 7 :=
  match cfg.refButton, cfg.closedPos with
  | .toClosed, .at0 => 0#7
  | .toClosed, .at100 => 100#7
  | .toOpen, .at0 => 100#7
  | .toOpen, .at100 => 0#7

/-- The reset values of 10_state.md R31 for a configuration and the durable cell the deployment left,
with the histories empty as at the first reset, before any step and with no external move listed. -/
def State.resetWith (cfg : Config) (stored : Option U32) : State where
  cfg := cfg
  code := stored.getD cfg.startCode
  pos := resetPos cfg
  known := false
  moving := false
  phase := .reset
  cmdq := []
  stored := stored
  txlog := []
  publog := []
  evlog := []
  env := []

/-- The machine right after its first reset on a fresh device (10_state.md R29, R31), in the
configuration `Config.example` (DESIGN CHOICE, log 5). -/
def State.reset : State := State.resetWith Config.example none

end Sys2Proof.Machine
end

