-- ==== Sys2Proof/Machine/Flags.lean ====
section
/-! DEFINITION. What each rule leaves in the flags KNOWN (10_state.md R23) and MOVING (10_state.md R24). -/

namespace Sys2Proof.Machine

/-- `KNOWN` after a full move with this burst result (43_cover_controller.md R174). -/
def knownAfterMove (r : BurstResult) (known : Bool) : Bool :=
  match r with
  | .ok => true
  | .driverFailure _ _ => false
  | .invalidCodeIndex _ => known

/-- `KNOWN` after a direct `STOP` (43_cover_controller.md R181). -/
def knownAfterStop (r : BurstResult) (known : Bool) : Bool :=
  match r with
  | .ok => false
  | .driverFailure _ _ => false
  | .invalidCodeIndex _ => known

/-- `KNOWN` after the direction burst of a `SET_POSITION` that fails (43_cover_controller.md R178). -/
def knownAfterDirection (r : BurstResult) (known : Bool) : Bool :=
  match r with
  | .ok => known
  | .driverFailure _ _ => false
  | .invalidCodeIndex _ => known

/-- The context is a part of a `SET_POSITION` in which `MOVING` is 1 (10_state.md R24). -/
def ctxMoving : Ctx → Bool
  | .startupRef => false
  | .cmdOpen => false
  | .cmdClose => false
  | .cmdStop => false
  | .spRehome _ => false
  | .spDir _ => true
  | .spStop _ => true

/-- `MOVING` once `CodeExhausted` has ended the command that a burst of this context belongs to: 0 where the command
had set it (10_state.md R24, 60_exceptions.md R225). -/
def movingAfterHalt (ctx : Ctx) (moving : Bool) : Bool := if ctxMoving ctx then false else moving

end Sys2Proof.Machine
end

