-- ==== Sys2Proof/Machine/Operands.lean ====
section
/-! DEFINITION. The values the block's rules compute with: button codes, table reads, serial bytes, positions,
directions, durations, snapshots, event codes. -/

namespace Sys2Proof

/-- The wire code of a button: OPEN = 1, STOP = 2, CLOSE = 4 (30_encoding.md R76). -/
def Button.code : Button → Nat
  | .btnOpen => 1
  | .btnStop => 2
  | .btnClose => 4

/-- The button of a full move. -/
def Travel.button : Travel → Button
  | .toOpen => .btnOpen
  | .toClosed => .btnClose

/-- The entry listed for an index; 0 where none is listed (log 6). -/
def lookupEntry {w : Nat} (i : Nat) : List (Nat × BitVec w) → BitVec w
  | [] => 0#w
  | (j, v) :: rest => if i = j then v else lookupEntry i rest

/-- A table read: the whole entry inside the domain, no value outside (20_memory.md R50, R51). -/
def RomTable.read {w : Nat} (t : RomTable w) (i : Nat) : Option (BitVec w) :=
  if i < t.size then some (lookupEntry i t.entries) else none

/-- Indices rise strictly from at least `lo`, stay below `size`, and no entry is 0. -/
def entriesCanonical {w : Nat} (lo size : Nat) : List (Nat × BitVec w) → Bool
  | [] => true
  | (i, v) :: rest => decide (lo ≤ i) && decide (i < size) && decide (v ≠ 0#w) && entriesCanonical (i + 1) size rest

/-- The canonical form of a table, so that equal tables are equal data. -/
def RomTable.wf {w : Nat} (t : RomTable w) : Bool := entriesCanonical 0 t.size t.entries

end Sys2Proof

namespace Sys2Proof.Machine

/-- The canonical form of what the block reads by index: its two tables (20_memory.md R53; the third
space, the durable cell, is one whole integer). -/
def Memory.wf (cfg : Config) : Bool := cfg.encodeTable.wf && cfg.kiTable.wf

/-- A legal configuration: canonical tables and non-negative durations (00_scope.md R6). -/
def configWf (cfg : Config) : Bool :=
  Memory.wf cfg && decide (0 ≤ cfg.tTotal) && decide (0 ≤ cfg.startupGuard)

/-- `b0`, the least significant byte of the serial (20_memory.md R57, 40_frame_encoder.md R101). -/
def serialByte0 (serial : U32) : Byte := serial.extractLsb' 0 8
/-- `b1` (R57, R101). -/
def serialByte1 (serial : U32) : Byte := serial.extractLsb' 8 8
/-- `b2` (R57, R101). -/
def serialByte2 (serial : U32) : Byte := serial.extractLsb' 16 8
/-- `b3`, the most significant byte (R57, R101). -/
def serialByte3 (serial : U32) : Byte := serial.extractLsb' 24 8

/-- The position of an extreme, as `POS` holds it (00_scope.md R6). -/
def extremePos : Extreme → BitVec 7
  | .at0 => 0#7
  | .at100 => 100#7

/-- `CLOSED_POS` as a position. -/
def closedPos (cfg : Config) : BitVec 7 := extremePos cfg.closedPos

/-- `OPEN_POS = 100 - CLOSED_POS` (43_cover_controller.md R170). -/
def openPos (cfg : Config) : BitVec 7 := 100#7 - closedPos cfg

/-- `posOf` of a travel button (43_cover_controller.md R170). -/
def posOf (cfg : Config) : Travel → BitVec 7
  | .toOpen => openPos cfg
  | .toClosed => closedPos cfg

/-- `refPos(REF_BUTTON)` (43_cover_controller.md R170). -/
def refPos (cfg : Config) : BitVec 7 := posOf cfg cfg.refButton

/-- `delta = |POS - t|` (43_cover_controller.md R178). -/
def delta (pos : BitVec 7) (t : Byte) : Nat := (pos.toNat - t.toNat) + (t.toNat - pos.toNat)

/-- `dirTo(t)` (43_cover_controller.md R171). -/
def dirTo (cfg : Config) (pos : BitVec 7) (t : Byte) : Travel :=
  if (pos.toNat < t.toNat ∧ openPos cfg = 100#7) ∨ (t.toNat < pos.toNat ∧ openPos cfg = 0#7) then .toOpen
  else .toClosed

/-- `d = delta * T_TOTAL / 100`, exact (43_cover_controller.md R178, 00_scope.md R8). -/
def waitSeconds (cfg : Config) (pos : BitVec 7) (t : Byte) : Rat := (delta pos t : Rat) * cfg.tTotal / 100

/-- `snapshot()` (30_encoding.md R85). -/
def snapshotOf (cfg : Config) (pos : BitVec 7) : Snapshot where
  state := if pos = closedPos cfg then .closed else if pos = openPos cfg then .opened else .partiallyOpen
  position := pos

/-- A burst's result as the status of `Done` (60_exceptions.md R220). -/
def BurstResult.status : BurstResult → Status
  | .ok => .ok
  | .invalidCodeIndex c => .invalidCodeIndex c
  | .driverFailure c r => .driverFailure c r

/-- The code of an event (60_exceptions.md R220, code column). -/
def LogEvent.number : LogEvent → Nat
  | .persistenceFailure _ => 2
  | .invalidCommandPayload _ => 3
  | .codeExhausted _ => 5
  | .ignored _ => 6
  | .done _ _ => 7

/-- The code of an error that `Done` carries as its status (60_exceptions.md R220, codes 1 and 4). -/
def Status.errorNumber : Status → Option Nat
  | .ok => none
  | .invalidCodeIndex _ => some 1
  | .driverFailure _ _ => some 4
  | .cancelled => none

end Sys2Proof.Machine
end

