-- ==== Sys2Proof/Machine/PulseSerializer.lean ====
section
/-! DEFINITION. The Pulse-Train Serializer, SERIALIZE (41_pulse_serializer.md). -/

namespace Sys2Proof.Machine

/-- `SHORT`, in microseconds (41_pulse_serializer.md R132). -/
def shortMicros : Nat := 500
/-- `LONG` (R132). -/
def longMicros : Nat := 1000
/-- `SYNC` (R132). -/
def syncMicros : Nat := 1500
/-- `GAP` (R132). -/
def gapMicros : Nat := 15000

/-- The sync symbol (30_encoding.md R81). -/
def syncPulses : List Pulse := [⟨.high, syncMicros⟩, ⟨.low, syncMicros⟩]

/-- The symbol of one bit (30_encoding.md R81). -/
def bitPulses (b : Bool) : List Pulse :=
  if b then [⟨.high, shortMicros⟩, ⟨.low, longMicros⟩] else [⟨.high, longMicros⟩, ⟨.low, shortMicros⟩]

/-- The symbols of frame bits `n-1` down to 0, most significant first (41_pulse_serializer.md R131). -/
def bitsPulses (f : Frame) : Nat → List Pulse
  | 0 => []
  | n + 1 => bitPulses (f.getLsbD n) ++ bitsPulses f n

/-- `SERIALIZE` (41_pulse_serializer.md R132). -/
def serialize (f : Frame) : List Pulse :=
  syncPulses ++ bitsPulses f 52 ++ syncPulses ++ [⟨.low, gapMicros⟩]

end Sys2Proof.Machine
end

