-- ==== Sys2Proof/Machine/Ops.lean ====
section
/-! DEFINITION. The named operations on the state that every rule is written with. -/

namespace Sys2Proof.Machine

/-- `PHASE <- p`. -/
def enterPhase (p : Phase) (s : State) : State := { s with phase := p }

/-- `Publish(snapshot())`: appends to `PUBLOG`, never waits (43_cover_controller.md R184). -/
def publish (s : State) : State := { s with publog := s.publog ++ [snapshotOf s.cfg s.pos] }

/-- `Report(e)`: appends to `EVLOG`, never waits (60_exceptions.md R220). -/
def report (e : LogEvent) (s : State) : State := { s with evlog := s.evlog ++ [e] }

/-- The hand-over to `Driver.transmit` with its answer, as `TXLOG` records it (10_state.md R30,
43_cover_controller.md R172). -/
def logTransmit (e : TxEntry) (s : State) : State := { s with txlog := s.txlog ++ [e] }

/-- `KNOWN <- k`. -/
def setKnown (k : Bool) (s : State) : State := { s with known := k }

/-- `MOVING <- m`. -/
def setMoving (m : Bool) (s : State) : State := { s with moving := m }

/-- `POS <- p`. -/
def setPos (p : BitVec 7) (s : State) : State := { s with pos := p }

/-- `CODE <- c`. -/
def setCode (c : U32) (s : State) : State := { s with code := c }

/-- The Storage's side of `Storage.write(new)`: all or nothing (20_memory.md R54). -/
def writeStored (a : Answer) (new : U32) (s : State) : State :=
  match a with
  | .ok => { s with stored := some new }
  | .err => s

/-- An accepted command at `CMDQ`'s tail (10_state.md R27). -/
def enqueue (c : Command) (s : State) : State := { s with cmdq := s.cmdq ++ [c] }

/-- `CMDQ <- q`, when dispatch removes the head (43_cover_controller.md R187). -/
def setQueue (q : List Command) (s : State) : State := { s with cmdq := q }

/-- The external moves still to come (log 1). -/
def setEnv (es : List EnvEvent) (s : State) : State := { s with env := es }

/-- The end of every command that ran, whatever its status: error entry and return from it are this one
operation (60_exceptions.md R229, R230). `Done` is reported once and the Controller is idle again
(R226, 43_cover_controller.md R187). The effects of the error and the snapshot come before it. -/
def finish (c : Command) (st : Status) (s : State) : State :=
  enterPhase .idle (report (.done (.command c) st) s)

/-- Room in `CMDQ` (10_state.md R27). Without it the Host has no move: no delivery is made in any phase, whatever it
would decode to (43_cover_controller.md R186). -/
def hasRoom (s : State) : Bool :=
  match s.cfg.cmdqCap with
  | none => true
  | some cap => decide (s.cmdq.length < cap)

/-- The phases in which decoded commands are ignored (43_cover_controller.md R186, 70_reset_and_hazards.md
R252). -/
def startupWindow : Phase → Bool
  | .reset => true
  | .guard => true
  | .tx .startupRef _ _ _ => true
  | .persist .startupRef _ _ => true
  | _ => false

/-- Command admission (43_cover_controller.md R186), on the Host's side: it never waits. -/
def deliverCommand (raw : RawCommand) (s : State) : State :=
  match decodeRaw raw with
  | none => report (.invalidCommandPayload (.raw raw)) s
  | some c => if startupWindow s.phase then report (.ignored c) s else enqueue c s

/-- A process restart: every register at its reset value; configuration, `STORED` and the histories are
kept (10_state.md R31, 70_reset_and_hazards.md R255). -/
def restartState (s : State) : State :=
  { State.resetWith s.cfg s.stored with
    txlog := s.txlog, publog := s.publog, evlog := s.evlog, env := s.env }

end Sys2Proof.Machine
end

