-- ==== Sys2Proof/Machine/CodeStore.lean ====
section
/-! DEFINITION. The Rolling-Code Store: CURRENT, ADVANCE, LOAD (42_rolling_code_store.md). -/

namespace Sys2Proof.Machine

/-- `CURRENT()` (42_rolling_code_store.md R150). -/
def current (s : State) : U32 := s.code

/-- `ADVANCE()` up to its call of `Storage.write` (42_rolling_code_store.md R151), at the end of a burst
of context `ctx` that returns `r`. At the top of the range the running command ends (60_exceptions.md R225), and with
it the time in which `MOVING` is 1 (10_state.md R24). The Controller halts and does nothing more: `KNOWN` and `POS`
keep their values (log 9). -/
def advance (ctx : Ctx) (r : BurstResult) (s : State) : State :=
  if s.code = 0xFFFFFFFF#32 then
    enterPhase (.halted .codeExhausted)
      (report (.codeExhausted s.code) (setMoving (movingAfterHalt ctx s.moving) s))
  else enterPhase (.persist ctx (s.code + 1#32) r) s

/-- `ADVANCE()` after the Storage's answer: `CODE` is committed whatever it is (42_rolling_code_store.md
R151, 60_exceptions.md R222). -/
def commit (new : U32) (a : Answer) (s : State) : State :=
  let s' := setCode new (writeStored a new s)
  match a with
  | .ok => s'
  | .err => report (.persistenceFailure new) s'

/-- `LOAD()` with the answer of `Storage.read` (42_rolling_code_store.md R153). -/
def load (read : Option U32) (s : State) : State := setCode (read.getD s.cfg.startCode) s

end Sys2Proof.Machine
end

