-- ==== Sys2Proof/Machine/FrameEncoder.lean ====
section
/-! DEFINITION. The Frame Encoder, ENCODE (40_frame_encoder.md). -/

namespace Sys2Proof.Machine

/-- What `ENCODE` answers: a frame, or the error `InvalidCodeIndex(code)` (40_frame_encoder.md R100). -/
inductive EncodeResult where
  | frame (f : Frame)
  | invalidCodeIndex (code : U32)
deriving DecidableEq, Repr

/-- The keystream byte (40_frame_encoder.md R103), from the `KiTable` entry and `enc`. -/
def keystreamByte (kiEntry : Byte) (enc : BitVec 16) : Byte := kiEntry ^^^ enc.extractLsb' 0 8

/-- Step 4's `e0` (40_frame_encoder.md R104). -/
def bufferE0 (button : Nat) : Byte := BitVec.ofNat 8 (button &&& 0x0F)

/-- Step 4's `e1`: computed on unbounded integers and kept to 8 bits (40_frame_encoder.md R104). -/
def bufferE1 (button rep : Nat) (b3 ki : Byte) : Byte :=
  BitVec.ofNat 8 (((rep ^^^ button ^^^ 0x0F) <<< 4) ||| ((b3 ^^^ ki) &&& 0x0F#8).toNat)

/-- Step 5: octet `k` of `packed` is the low nibble of byte `6-k` above the high nibble of byte `7-k`,
octet 0's low nibble is 0 (40_frame_encoder.md R105). UNVERIFIED: the mapping is general knowledge, not in
the source (log 11). -/
def packNibbles (e0 e1 e2 e3 e4 e5 e6 : Byte) : BitVec 56 :=
  let lo (b : Byte) : BitVec 4 := b.extractLsb' 0 4
  let hi (b : Byte) : BitVec 4 := b.extractLsb' 4 4
  (lo e0 ++ hi e1) ++ (lo e1 ++ hi e2) ++ (lo e2 ++ hi e3) ++ (lo e3 ++ hi e4) ++ (lo e4 ++ hi e5) ++
    (lo e5 ++ hi e6) ++ (lo e6 ++ 0#4)

/-- Step 6: whitening and shift, retained as 52 bits (40_frame_encoder.md R106). -/
def whiten (packed : BitVec 56) : Frame := ((packed ^^^ 0xFFFFFFFFFFFFF0#56) >>> 4).setWidth 52

/-- Steps 1 and 4 to 6, once `enc` and `ki` are known (40_frame_encoder.md R107). -/
def frameOf (serial : U32) (enc : BitVec 16) (ki : Byte) (button rep : Nat) : Frame :=
  whiten (packNibbles (bufferE0 button) (bufferE1 button rep (serialByte3 serial) ki)
    (enc.extractLsb' 8 8) (enc.extractLsb' 0 8)
    (serialByte2 serial ^^^ ki) (serialByte1 serial ^^^ ki) (serialByte0 serial ^^^ ki))

/-- `ENCODE` (40_frame_encoder.md R107): both indices are checked before any table is used (R102). -/
def encodeFrame (cfg : Config) (serial code : U32) (button rep : Nat) : EncodeResult :=
  match cfg.encodeTable.read code.toNat, cfg.kiTable.read (code.toNat &&& 0xFF) with
  | some enc, some kiEntry => .frame (frameOf serial enc (keystreamByte kiEntry enc) button rep)
  | _, _ => .invalidCodeIndex code

end Sys2Proof.Machine
end

