-- ==== Sys2Proof/Machine/CoverController.lean ====
section
/-! DEFINITION. The Cover Controller: bursts, full moves, what each command does when its burst or its wait
ends, and the startup procedure (43_cover_controller.md R170 to R181, 70_reset_and_hazards.md R250). -/

namespace Sys2Proof.Machine

/-- `BURST` from the `ENCODE` of repeat `rep` to its call of `Driver.transmit` (43_cover_controller.md
R172); `onInvalid` is what the rule that runs the burst does with `InvalidCodeIndex`. -/
def attempt (ctx : Ctx) (b : Button) (rep : Nat) (onInvalid : BurstResult → State → State) (s : State) : State :=
  match encodeFrame s.cfg s.cfg.serial (current s) b.code rep with
  | .frame f => enterPhase (.tx ctx b rep f) s
  | .invalidCodeIndex c => onInvalid (.invalidCodeIndex c) s

/-- The end of `FULLMOVE` (43_cover_controller.md R174). -/
def endMove (tr : Travel) (r : BurstResult) (s : State) : State :=
  let s' := setKnown (knownAfterMove r s.known) s
  match r with
  | .ok => publish (setPos (posOf s.cfg tr) s')
  | .invalidCodeIndex _ => publish s'
  | .driverFailure _ _ => publish s'

/-- The end of the startup reference move; the guard follows (70_reset_and_hazards.md R250, R253). -/
def endReference (r : BurstResult) (s : State) : State :=
  enterPhase .guard (report (.done .reference r.status) (endMove s.cfg.refButton r s))

/-- The end of `OPEN` and of `CLOSE` (43_cover_controller.md R175, R176). -/
def endTravel (tr : Travel) (c : Command) (r : BurstResult) (s : State) : State :=
  finish c r.status (endMove tr r s)

/-- The end of `STOP` (43_cover_controller.md R181). -/
def endStop (r : BurstResult) (s : State) : State :=
  finish .stopCover r.status (publish (setKnown (knownAfterStop r s.known) s))

/-- `SET_POSITION` after its final `STOP` burst (43_cover_controller.md R178). -/
def endFinalStop (t : Byte) (r : BurstResult) (s : State) : State :=
  let s' := setMoving false s
  match r with
  | .ok => finish (.setPosition t) .ok (publish (setKnown true (setPos (t.setWidth 7) s')))
  | r => finish (.setPosition t) r.status (publish (setKnown false s'))

/-- `SET_POSITION` after its direction burst: the wait, or the error (43_cover_controller.md R178). -/
def endDirection (t : Byte) (r : BurstResult) (s : State) : State :=
  match r with
  | .ok => enterPhase (.wait t (waitSeconds s.cfg s.pos t)) s
  | r => finish (.setPosition t) r.status
      (publish (setKnown (knownAfterDirection r s.known) (setMoving false s)))

/-- `SET_POSITION` from a known position: nothing to do, or the direction burst (43_cover_controller.md
R178, R179). -/
def estimate (t : Byte) (s : State) : State :=
  if delta s.pos t = 0 then finish (.setPosition t) .ok (publish s)
  else attempt (.spDir t) (dirTo s.cfg s.pos t).button 1 (endDirection t) (setMoving true s)

/-- `SET_POSITION` after its re-homing move (43_cover_controller.md R178). -/
def endRehome (t : Byte) (r : BurstResult) (s : State) : State :=
  let s' := endMove s.cfg.refButton r s
  match r with
  | .ok => estimate t s'
  | r => finish (.setPosition t) r.status s'

/-- The rule a burst's result returns to, by context. -/
def returnTo (ctx : Ctx) (r : BurstResult) (s : State) : State :=
  match ctx with
  | .startupRef => endReference r s
  | .cmdOpen => endTravel .toOpen .openCover r s
  | .cmdClose => endTravel .toClosed .closeCover r s
  | .cmdStop => endStop r s
  | .spRehome t => endRehome t r s
  | .spDir t => endDirection t r s
  | .spStop t => endFinalStop t r s

/-- `BURST` after the Driver's answer to repeat `rep` (43_cover_controller.md R172): the log entry, then
the next repeat, or `ADVANCE`. -/
def transmitted (ctx : Ctx) (b : Button) (rep : Nat) (f : Frame) (a : Answer) (s : State) : State :=
  let s' := logTransmit { code := current s, button := b, rep := rep, train := serialize f, answer := a } s
  match a with
  | .err => advance ctx (.driverFailure (current s) rep) s'
  | .ok => if rep < 6 then attempt ctx b (rep + 1) (returnTo ctx) s' else advance ctx .ok s'

/-- The end of a burst: `ADVANCE` commits and the burst returns (42_rolling_code_store.md R151). -/
def persisted (ctx : Ctx) (new : U32) (r : BurstResult) (a : Answer) (s : State) : State :=
  returnTo ctx r (commit new a s)

/-- The wait of a `SET_POSITION` has elapsed: its `STOP` burst (43_cover_controller.md R178, R180). -/
def waitElapsed (t : Byte) (s : State) : State := attempt (.spStop t) .btnStop 1 (endFinalStop t) s

/-- The wait of a `SET_POSITION` is cancelled: no `STOP` burst (43_cover_controller.md R178, R180). -/
def waitCancelled (t : Byte) (s : State) : State :=
  finish (.setPosition t) .cancelled (publish (setKnown false (setMoving false s)))

/-- `SET_POSITION` up to its first call (43_cover_controller.md R177, R178). -/
def beginSetPosition (t : Byte) (s : State) : State :=
  if s.cfg.tTotal = 0 then
    enterPhase .idle (report (.invalidCommandPayload (.refused (.setPosition t))) s)
  else if s.known then estimate t s
  else attempt (.spRehome t) s.cfg.refButton.button 1 (returnTo (.spRehome t)) s

/-- `STARTUP` up to its first call, with the answer of `Storage.read` (70_reset_and_hazards.md R250). -/
def beginStartup (read : Option U32) (s : State) : State :=
  let s' := load read s
  attempt .startupRef s'.cfg.refButton.button 1 (returnTo .startupRef) s'

end Sys2Proof.Machine
end

