-- ==== Sys2Proof/Machine/Sequencer.lean ====
section
/-! DEFINITION. External moves: which are possible in which phase, what each does, and how a command runs on over
them (60_exceptions.md R228, R231, 43_cover_controller.md R180, R186, R187). -/

namespace Sys2Proof.Machine

/-- A wait that a queued command cancels (43_cover_controller.md R180). -/
def cancellable (s : State) : Bool :=
  match s.phase with
  | .wait _ _ => !s.cmdq.isEmpty
  | _ => false

/-- The Controller has a move of its own: startup, dispatch (43_cover_controller.md R187) or cancellation. -/
def canProceed (s : State) : Bool :=
  match s.phase with
  | .reset => true
  | .idle => !s.cmdq.isEmpty
  | .wait _ _ => !s.cmdq.isEmpty
  | _ => false

/-- The external move is possible now (60_exceptions.md R231, "accepted when", and 43_cover_controller.md R186 for
a full queue). -/
def accepts (e : EnvEvent) (s : State) : Bool :=
  match e with
  | .deliver _ => hasRoom s
  | .reconnect => true
  | .restart => true
  | .driver _ => match s.phase with | .tx _ _ _ _ => true | _ => false
  | .storage _ => match s.phase with | .persist _ _ _ => true | _ => false
  | .elapsed => match s.phase with | .wait _ _ => true | .guard => true | _ => false
  | .unreadable => match s.phase with | .reset => true | _ => false
  | .proceed => canProceed s

/-- A queued command ends the wait it finds (43_cover_controller.md R180); otherwise nothing. -/
def cancelIfQueued (s : State) : State :=
  match s.phase with
  | .wait t _ => if s.cmdq.isEmpty then s else waitCancelled t s
  | _ => s

/-- The effect of an external move (60_exceptions.md R231). A `proceed` here can only cancel a wait: startup
and dispatch are steps of their own. -/
def react (e : EnvEvent) (s : State) : State :=
  match e with
  | .deliver raw => deliverCommand raw s
  | .reconnect => publish s
  | .restart => restartState s
  | .driver a => match s.phase with | .tx ctx b rep f => transmitted ctx b rep f a s | _ => s
  | .storage a => match s.phase with | .persist ctx new r => persisted ctx new r a s | _ => s
  | .elapsed => match s.phase with | .wait t _ => waitElapsed t s | .guard => enterPhase .idle s | _ => s
  | .unreadable => s
  | .proceed => cancelIfQueued s

/-- No command and no startup is in progress. -/
def restingPhase : Phase → Bool
  | .reset => true
  | .idle => true
  | .halted _ => true
  | _ => false

/-- Runs a command or the startup procedure on over the external moves to come (43_cover_controller.md R187),
until it has ended, a restart is next, or the next move is not possible; then the moves not taken stay
listed. A queued command cancels the wait it finds where the Timer gives no answer (R180, log 3). -/
def settle : List EnvEvent → State → State
  | [], s => cancelIfQueued (setEnv [] s)
  | e :: es, s =>
    if restingPhase s.phase || decide (e = .restart) then setEnv (e :: es) s
    else if accepts e s then settle es (react e s)
    else cancelIfQueued (setEnv (e :: es) s)

end Sys2Proof.Machine
end

