-- ==== Sys2Proof/Machine/Commands.lean ====
section
/-! DEFINITION. The meanings of the four commands (43_cover_controller.md R175 to R181). Each runs its rule to completion
over the external moves listed in env (R187, log 3). -/

namespace Sys2Proof.Machine

/-- `OPEN` (43_cover_controller.md R175). -/
def execOpenCover (s : State) : Host.Outcome State Fault Refusal :=
  .next (settle s.env (attempt .cmdOpen .btnOpen 1 (returnTo .cmdOpen) s))

/-- `STOP` (43_cover_controller.md R181). -/
def execStopCover (s : State) : Host.Outcome State Fault Refusal :=
  .next (settle s.env (attempt .cmdStop .btnStop 1 (returnTo .cmdStop) s))

/-- `CLOSE` (43_cover_controller.md R176). -/
def execCloseCover (s : State) : Host.Outcome State Fault Refusal :=
  .next (settle s.env (attempt .cmdClose .btnClose 1 (returnTo .cmdClose) s))

/-- `SET_POSITION(t)` (43_cover_controller.md R177 to R180). -/
def execSetPosition (t : Byte) (s : State) : Host.Outcome State Fault Refusal :=
  .next (settle s.env (beginSetPosition t s))

end Sys2Proof.Machine
end

