-- ==== Sys2Proof/Machine/Frames.lean ====
section
/-! DEFINITION. The meanings of the three frame rows: the transmission of one repeat of the burst in progress
(43_cover_controller.md R172, 41_pulse_serializer.md R132). -/

namespace Sys2Proof.Machine

/-- A frame of button `b` at the Driver: in a `TX` phase of that button, once the Driver answers, its pulse
train is logged and the burst goes on with the next repeat or with `ADVANCE` (43_cover_controller.md R172).
While the Driver has not answered the Controller waits. Anywhere else no frame is handed to the Driver, and
making one writes no state (40_frame_encoder.md R100, 41_pulse_serializer.md R130, log 8). -/
def transmitFrame (b : Button) (f : Frame) (s : State) : State :=
  match s.phase, s.env with
  | .tx ctx b' rep _, .driver a :: es =>
    if b' = b then transmitted ctx b rep f a (setEnv es s) else s
  | _, _ => s

/-- `FRAME_OPEN` (30_encoding.md R78). -/
def execFrameOpen (r sn : BitVec 4) (e : BitVec 16) (k : BitVec 24) (s : State) : Host.Outcome State Fault Refusal :=
  .next (transmitFrame .btnOpen (frameWord 0xE#4 r sn e k) s)

/-- `FRAME_STOP` (30_encoding.md R78). -/
def execFrameStop (r sn : BitVec 4) (e : BitVec 16) (k : BitVec 24) (s : State) : Host.Outcome State Fault Refusal :=
  .next (transmitFrame .btnStop (frameWord 0xD#4 r sn e k) s)

/-- `FRAME_CLOSE` (30_encoding.md R78). -/
def execFrameClose (r sn : BitVec 4) (e : BitVec 16) (k : BitVec 24) (s : State) : Host.Outcome State Fault Refusal :=
  .next (transmitFrame .btnClose (frameWord 0xB#4 r sn e k) s)

end Sys2Proof.Machine
end

