-- ==== Sys2Proof/Machine/Dispatch.lean ====
section
/-! DEFINITION. One arm per instruction. -/

namespace Sys2Proof.Machine

def exec (i : Instr) (s : State) : Host.Outcome State Fault Refusal :=
  match i with
  | .openCover => Sys2Proof.Machine.execOpenCover s
  | .stopCover => Sys2Proof.Machine.execStopCover s
  | .closeCover => Sys2Proof.Machine.execCloseCover s
  | .setPosition target => Sys2Proof.Machine.execSetPosition target s
  | .frameOpen r sn e k => Sys2Proof.Machine.execFrameOpen r sn e k s
  | .frameStop r sn e k => Sys2Proof.Machine.execFrameStop r sn e k s
  | .frameClose r sn e k => Sys2Proof.Machine.execFrameClose r sn e k s

end Sys2Proof.Machine
end

