-- ==== Sys2Proof/Machine/Turn.lean ====
section
/-! DEFINITION. What the next step is: the fetch of an instruction, or another move (log 2, log 3), and how a word is placed
where the next step fetches it. -/

namespace Sys2Proof.Machine

/-- What the next step does. -/
inductive Turn where
  | run (i : Instr) (s : State)
  | move (s : State)
  | stuck (reason : HaltReason)
  | reserved
deriving DecidableEq, Repr

/-- The Controller's own move: startup (70_reset_and_hazards.md R250), dispatch of `CMDQ`'s head
(43_cover_controller.md R187), cancellation (R180); none while it waits (60_exceptions.md R236) and none
once halted (R225). -/
def ownTurn (s : State) : Turn :=
  match s.phase with
  | .reset => .move (settle s.env (beginStartup s.stored s))
  | .idle =>
    match s.cmdq with
    | [] => .move s
    | c :: q => .run c.toInstr (setQueue q s)
  | .wait _ _ => .move (cancelIfQueued s)
  | .halted r => .stuck r
  | .tx _ _ _ _ => .move s
  | .persist _ _ _ => .move s
  | .guard => .move s

/-- The fetch of the frame at the Driver, in a `TX` phase. -/
def frameTurn (s : State) : Turn :=
  match s.phase with
  | .tx _ _ _ f =>
    match decodeFrame f with
    | some i => .run i s
    | none => .reserved
  | _ => .move s

/-- The next step: the next external move if it is possible now, else the Controller's own. -/
def nextTurn (s : State) : Turn :=
  match s.env with
  | [] => ownTurn s
  | e :: es =>
    if accepts e s then
      match e with
      | .driver _ => frameTurn s
      | .proceed => ownTurn (setEnv es s)
      | .unreadable => .move (settle es (beginStartup none (setEnv es s)))
      | .deliver raw => .move (react (.deliver raw) (setEnv es s))
      | .reconnect => .move (react .reconnect (setEnv es s))
      | .restart => .move (react .restart (setEnv es s))
      | .storage a => .move (react (.storage a) (setEnv es s))
      | .elapsed => .move (react .elapsed (setEnv es s))
    else ownTurn s

/-- A burst that has reached the frame `i`, whose repeat is told by its bits 47:44 (30_encoding.md R78), and
the Driver's answer `Ok` to it. -/
def placeFrame (ctx : Ctx) (b : Button) (kind r sn : BitVec 4) (e : BitVec 16) (k : BitVec 24) (s : State) : State :=
  setEnv (.driver .ok :: s.env) (enterPhase (.tx ctx b (r.toNat ^^^ b.code) (frameWord kind r sn e k)) s)

/-- A command at the head of `CMDQ` while the Controller is idle and moves next. -/
def placeCommand (c : Command) (s : State) : State :=
  setEnv (.proceed :: s.env) (setQueue (c :: s.cmdq) (enterPhase .idle s))

/-- A 52-bit value of a reserved button at the Driver, with the answer `Ok` to it: the next step refuses it
(30_encoding.md R77). DESIGN CHOICE: no burst has such a frame, and the context, button and repeat named here are
never read (log 15, log 21). -/
def placeReserved (f : Frame) (s : State) : State :=
  setEnv (.driver .ok :: s.env) (enterPhase (.tx .cmdOpen .btnOpen 1 f) s)

/-- Places a value that is no row of the opcode table. DESIGN CHOICE (log 15): a 16-bit value is delivered whole, and
admission rejects it (30_encoding.md R73); a 52-bit value of a reserved button is placed at the Driver, where the step
refuses it; a value of any other width, or with a bit above its width, is no word of the block and places nothing. -/
def placeNonRow (nbits w : Nat) (s : State) : State :=
  if nbits = 16 then
    if w < 2 ^ 16 then setEnv (.deliver (.word (BitVec.ofNat 16 w)) :: s.env) (enterPhase .idle s) else s
  else if nbits = 52 ∨ nbits = 56 then
    if w < 2 ^ 52 then placeReserved (BitVec.ofNat 52 w) s else s
  else s

/-- Places an instruction where the next step fetches it: a command at `CMDQ`'s head, a frame at the
Driver (log 15). -/
def placeWord (nbits w : Nat) (s : State) : State :=
  match decodeTableWord nbits w with
  | some (.frameOpen r sn e k) => placeFrame .cmdOpen .btnOpen 0xE#4 r sn e k s
  | some (.frameStop r sn e k) => placeFrame .cmdStop .btnStop 0xD#4 r sn e k s
  | some (.frameClose r sn e k) => placeFrame .cmdClose .btnClose 0xB#4 r sn e k s
  | some .openCover => placeCommand .openCover s
  | some .stopCover => placeCommand .stopCover s
  | some .closeCover => placeCommand .closeCover s
  | some (.setPosition t) => placeCommand (.setPosition t) s
  | none => placeNonRow nbits w s

end Sys2Proof.Machine
end

