-- ==== Sys2Proof/Machine/Step.lean ====
section
/-! DEFINITION. One step of the machine, and the placing of a word for the next fetch. -/

namespace Sys2Proof.Machine

/-- One step: the instruction fetched, or another move of the Controller or of an external agent. -/
def step (s : State) : Host.Outcome State Fault Refusal :=
  match nextTurn s with
  | .run i s' => exec i s'
  | .move s' => .next s'
  | .stuck .codeExhausted => .fault .codeExhausted
  | .reserved => .refused .reservedFrame

/-- `s` with the instruction whose bits are `w` placed where the next step fetches it. -/
def State.withFetchWord (s : State) (nbits w : Nat) : State := placeWord nbits w s

end Sys2Proof.Machine
end

