-- ==== Sys2Proof/Safety.lean ====
section
/-! DEFINITION. The terms claims are stated in: the legal states, the order of code consumption, the frame table of
30_encoding.md R78, and what a burst with given answers leaves. -/

namespace Sys2Proof.Machine

/-- Both table indices of a code are in their domains (40_frame_encoder.md R102). -/
def inDomain (cfg : Config) (code : U32) : Bool :=
  decide (code.toNat < cfg.encodeTable.size) && decide (code.toNat % 256 < cfg.kiTable.size)

/-- The frame of a code, button and repeat, field by field as the table of 30_encoding.md R78 lists them. -/
def specFrame (cfg : Config) (code : U32) (button rep : Nat) : Frame :=
  let enc : BitVec 16 := lookupEntry code.toNat cfg.encodeTable.entries
  let ki : Byte := lookupEntry (code.toNat % 256) cfg.kiTable.entries ^^^ enc.setWidth 8
  let sbyte (k : Nat) : Byte := BitVec.ofNat 8 (cfg.serial.toNat / 256 ^ k)
  ~~~(BitVec.ofNat 4 button) ++ BitVec.ofNat 4 (rep ^^^ button) ++ ~~~((sbyte 3 ^^^ ki).setWidth 4) ++ ~~~enc ++
    ~~~(sbyte 2 ^^^ ki) ++ ~~~(sbyte 1 ^^^ ki) ++ ~~~(sbyte 0 ^^^ ki)

/-- The log entry of one transmitted repeat. -/
def specEntry (cfg : Config) (code : U32) (b : Button) (rep : Nat) (a : Answer) : TxEntry where
  code := code
  button := b
  rep := rep
  train := serialize (specFrame cfg code b.code rep)
  answer := a

/-- The log of a burst whose first `n` repeats the Driver answers `Ok`. -/
def okEntries (cfg : Config) (code : U32) (b : Button) (n : Nat) : List TxEntry :=
  (List.range n).map fun k => specEntry cfg code b (k + 1) .ok

/-- The answers to a burst that goes through, the Storage answering `a`. -/
def burstAnswers (a : Answer) : List EnvEvent := List.replicate 6 (.driver .ok) ++ [.storage a]

/-- The answers to a burst the Driver fails at repeat `n + 1`, the Storage answering `a`. -/
def failedAnswers (n : Nat) (a : Answer) : List EnvEvent :=
  List.replicate n (.driver .ok) ++ [.driver .err, .storage a]

/-- What `Storage.write` of the next code leaves in `STORED` (20_memory.md R54). -/
def storedAfter (a : Answer) (code : U32) (stored : Option U32) : Option U32 :=
  if a = .ok then some (code + 1#32) else stored

/-- The event of a failed write (60_exceptions.md R222). -/
def writeEvents (a : Answer) (code : U32) : List LogEvent :=
  if a = .err then [.persistenceFailure (code + 1#32)] else []

/-- The state a whole burst leaves, before its rule goes on (43_cover_controller.md R172). -/
def afterBurst (b : Button) (a : Answer) (s : State) : State :=
  { s with
    code := s.code + 1#32
    stored := storedAfter a s.code s.stored
    txlog := s.txlog ++ okEntries s.cfg s.code b 6
    evlog := s.evlog ++ writeEvents a s.code }

/-- The state a burst leaves that the Driver failed at repeat `n + 1` (60_exceptions.md R224). -/
def afterFailedBurst (b : Button) (n : Nat) (a : Answer) (s : State) : State :=
  { s with
    code := s.code + 1#32
    stored := storedAfter a s.code s.stored
    txlog := s.txlog ++ okEntries s.cfg s.code b n ++ [specEntry s.cfg s.code b (n + 1) .err]
    evlog := s.evlog ++ writeEvents a s.code }

/-- The state a successful re-homing move leaves, before the `SET_POSITION` it opens goes on (43_cover_controller.md
R174, R178). -/
def rehomed (a : Answer) (s : State) : State :=
  { afterBurst s.cfg.refButton.button a s with
    pos := refPos s.cfg
    known := true
    publog := s.publog ++ [snapshotOf s.cfg (refPos s.cfg)] }

/-- The state a burst leaves that sent these repeats and then found no next code (60_exceptions.md R225). -/
def exhausted (sent : List TxEntry) (s : State) : State :=
  { s with
    phase := .halted .codeExhausted
    txlog := s.txlog ++ sent
    evlog := s.evlog ++ [.codeExhausted 0xFFFFFFFF#32] }

/-- The end of a command, in one state: its snapshot and its `Done`, the Controller idle. -/
def concluded (c : Command) (st : Status) (s : State) : State :=
  { s with
    phase := .idle
    publog := s.publog ++ [snapshotOf s.cfg s.pos]
    evlog := s.evlog ++ [.done (.command c) st] }

/-- The three commands of one burst, with the button each sends. -/
def oneBurst : Command → Option Button
  | .openCover => some .btnOpen
  | .stopCover => some .btnStop
  | .closeCover => some .btnClose
  | .setPosition _ => none

/-- The frame instruction of a button. -/
def frameInstr (b : Button) (r sn : BitVec 4) (e : BitVec 16) (k : BitVec 24) : Instr :=
  match b with
  | .btnOpen => .frameOpen r sn e k
  | .btnStop => .frameStop r sn e k
  | .btnClose => .frameClose r sn e k

/-- The button nibble of a frame (30_encoding.md R79 (a)). -/
def buttonNibble : Button → BitVec 4
  | .btnOpen => 0xE#4
  | .btnStop => 0xD#4
  | .btnClose => 0xB#4

/-- The operands a running `SET_POSITION` may have: a legal target that is not `POS`, and a travel time. -/
def estimating (cfg : Config) (pos : BitVec 7) (t : Byte) : Bool :=
  decide (t.toNat ≤ 100) && decide (pos.toNat ≠ t.toNat) && decide (cfg.tTotal ≠ 0)

/-- The context's operands are legal. -/
def ctxLegal (cfg : Config) (pos : BitVec 7) : Ctx → Bool
  | .startupRef => true
  | .cmdOpen => true
  | .cmdClose => true
  | .cmdStop => true
  | .spRehome t => decide (t.toNat ≤ 100) && decide (cfg.tTotal ≠ 0)
  | .spDir t => estimating cfg pos t
  | .spStop t => estimating cfg pos t

/-- The button a context's burst sends (43_cover_controller.md R174 to R181, 70_reset_and_hazards.md R250). -/
def ctxButton (cfg : Config) (pos : BitVec 7) : Ctx → Button
  | .startupRef => cfg.refButton.button
  | .cmdOpen => .btnOpen
  | .cmdClose => .btnClose
  | .cmdStop => .btnStop
  | .spRehome _ => cfg.refButton.button
  | .spDir t => (dirTo cfg pos t).button
  | .spStop _ => .btnStop

/-- The phases in which `MOVING` is 1 (10_state.md R24). -/
def phaseMoving : Phase → Bool
  | .tx ctx _ _ _ => ctxMoving ctx
  | .persist ctx _ _ => ctxMoving ctx
  | .wait _ _ => true
  | _ => false

/-- The startup phases before the reference move has ended. -/
def phaseUnreferenced : Phase → Bool
  | .reset => true
  | .tx .startupRef _ _ _ => true
  | .persist .startupRef _ _ => true
  | _ => false

/-- `PHASE` agrees with the registers: the frame at the Driver is the one `ENCODE` makes of `CODE`, the code to
persist is the next one, the wait's label is the one R178 gives (43_cover_controller.md R172, R178,
42_rolling_code_store.md R151). -/
def phaseLegal (s : State) : Prop :=
  match s.phase with
  | .tx ctx b rep f =>
    ctxLegal s.cfg s.pos ctx = true ∧ b = ctxButton s.cfg s.pos ctx ∧ 1 ≤ rep ∧ rep ≤ 6 ∧
      encodeFrame s.cfg s.cfg.serial s.code b.code rep = .frame f
  | .persist ctx new r =>
    ctxLegal s.cfg s.pos ctx = true ∧ s.code ≠ 0xFFFFFFFF#32 ∧ new = s.code + 1#32 ∧
      (r = .ok ∨ ∃ k, r = .driverFailure s.code k ∧ 1 ≤ k ∧ k ≤ 6)
  | .wait t d => estimating s.cfg s.pos t = true ∧ d = waitSeconds s.cfg s.pos t
  | _ => True

/-- The queue holds well-formed commands, within its capacity, none before startup has ended (10_state.md R27,
70_reset_and_hazards.md R252). -/
def queueLegal (s : State) : Prop :=
  (∀ c ∈ s.cmdq, c.wf = true) ∧ (∀ cap, s.cfg.cmdqCap = some cap → s.cmdq.length ≤ cap) ∧
    (startupWindow s.phase = true → s.cmdq = [])

/-- `MOVING` and `KNOWN` agree with `PHASE` (10_state.md R23, R24): `MOVING` is 1 exactly in the phases of a
`SET_POSITION` from its direction burst to its end, and 0 in every other phase, `HALTED` included. -/
def flagsLegal (s : State) : Prop :=
  s.moving = phaseMoving s.phase ∧
    (phaseMoving s.phase = true → s.known = true) ∧ (phaseUnreferenced s.phase = true → s.known = false)

/-- The legal states. -/
def State.Legal (s : State) : Prop :=
  configWf s.cfg = true ∧ s.pos.toNat ≤ 100 ∧ queueLegal s ∧ phaseLegal s ∧ flagsLegal s

/-- Every train in `TXLOG` is the pulse train of the frame that `ENCODE` makes of the entry's code, button and
repeat (10_state.md R30, 43_cover_controller.md R172). -/
def State.LogFaithful (s : State) : Prop :=
  ∀ e ∈ s.txlog, 1 ≤ e.rep ∧ e.rep ≤ 6 ∧
    ∃ f, encodeFrame s.cfg s.cfg.serial e.code e.button.code e.rep = .frame f ∧ e.train = serialize f

/-- A transmission of this code, button and repeat may come right after `prev`: the next repeat of a burst the
Driver has not failed, or the first repeat with the next code (42_rolling_code_store.md R155,
70_reset_and_hazards.md R256, R258). -/
def mayFollow (prev : Option TxEntry) (code : U32) (b : Button) (rep : Nat) : Prop :=
  match prev with
  | none => rep = 1
  | some p =>
    (code.toNat = p.code.toNat + 1 ∧ rep = 1) ∨
      (code = p.code ∧ b = p.button ∧ rep = p.rep + 1 ∧ p.answer = .ok)

/-- Each entry of the log may follow the one before it. -/
def inOrder : Option TxEntry → List TxEntry → Prop
  | _, [] => True
  | prev, e :: es => mayFollow prev e.code e.button e.rep ∧ inOrder (some e) es

/-- `CODE` stands where the log says: unspent and next in line whenever no burst is in progress. -/
def codeAgrees (s : State) : Prop :=
  match s.phase with
  | .tx _ b rep _ => mayFollow s.txlog.getLast? s.code b rep
  | .persist _ _ _ => ∃ p, s.txlog.getLast? = some p ∧ s.code = p.code
  | .halted _ => ∃ p, s.txlog.getLast? = some p ∧ s.code = p.code
  | .reset => s.txlog = []
  | _ => ∀ p, s.txlog.getLast? = some p → s.code.toNat = p.code.toNat + 1

/-- Codes are consumed one per burst, in order, with no gap and no repeat, since the first reset
(42_rolling_code_store.md R155, 70_reset_and_hazards.md R256). -/
def State.CodesInOrder (s : State) : Prop := inOrder none s.txlog ∧ codeAgrees s

/-- `STORED` is not ahead of `CODE` (42_rolling_code_store.md R152, 70_reset_and_hazards.md R260). -/
def State.StoredBehind (s : State) : Prop := ∀ v, s.stored = some v → v.toNat ≤ s.code.toNat

end Sys2Proof.Machine
end

