-- ==== Sys2Proof/Certificates/Slice0/Obligations.lean ====
section
/-! DEFINITION. The statements for the provers. -/

open Sys2Proof Sys2Proof.Machine

/-! ### Encodings -/

/-- The decoder and the encoder agree: a word decodes to an instruction exactly when that instruction is well
formed and the word is its encoding. -/
def Obligations.DecodeEncodeAgree : Prop :=
  ∀ (w : CodeWord) (i : Instr), decode w = some i ↔ i.wf = true ∧ encode i = w

/-- 30_encoding.md R75: which words spell which command, and how many words are valid. -/
def Obligations.CommandWordDecoding : Prop :=
  (∀ w : CommandWord, decode16 w = some .openCover ↔ w = 0x0100#16) ∧
  (∀ w : CommandWord, decode16 w = some .stopCover ↔ w = 0x0200#16) ∧
  (∀ w : CommandWord, decode16 w = some .closeCover ↔ w = 0x0400#16) ∧
  (∀ (w : CommandWord) (t : Byte), decode16 w = some (.setPosition t) ↔ w = 0x08#8 ++ t ∧ t.toNat ≤ 100) ∧
  ((List.range 65536).filter fun n => (decode16 (BitVec.ofNat 16 n)).isSome).length = 104 ∧
  ((List.range 65536).filter fun n => (decode16 (BitVec.ofNat 16 n)).isNone).length = 65432

/-- 30_encoding.md R72: the text grammar, exactly. A `set_position` payload is the ASCII form of one to three
decimal digits whose value is at most 100. -/
def Obligations.TextGrammar : Prop :=
  ∀ (topic payload : List Byte) (c : Command), decodeText topic payload = some c ↔
    (topic = topicSet ∧
      ((payload = payloadOpen ∧ c = .openCover) ∨ (payload = payloadClose ∧ c = .closeCover) ∨
        (payload = payloadStop ∧ c = .stopCover))) ∨
    (topic = topicSetPosition ∧
      ∃ ds : List (Fin 10), 1 ≤ ds.length ∧ ds.length ≤ 3 ∧
        payload = ds.map (fun d => BitVec.ofNat 8 (0x30 + d.val)) ∧
        Nat.ofDigits 10 (ds.reverse.map Fin.val) ≤ 100 ∧
        c = .setPosition (BitVec.ofNat 8 (Nat.ofDigits 10 (ds.reverse.map Fin.val))))

/-- Words written out from the rows of spec/opcode_table.json and 95_test_vectors.md decode to their rows
(a frame's 52 bits are given whole, log 16). -/
def Obligations.TableWordsDecode : Prop :=
  decodeTableWord 16 0x0100 = some .openCover ∧
  decodeTableWord 16 0x0200 = some .stopCover ∧
  decodeTableWord 16 0x0400 = some .closeCover ∧
  decodeTableWord 16 0x0864 = some (.setPosition 100#8) ∧
  decodeTableWord 16 0x0865 = none ∧
  decodeTableWord 16 0x0101 = none ∧
  decodeTableWord 56 0xE0A54325C3E10 = some (.frameOpen 0x0#4 0xA#4 0x5432#16 0x5C3E10#24) ∧
  decodeTableWord 56 0xD3A54325C3E10 = some (.frameStop 0x3#4 0xA#4 0x5432#16 0x5C3E10#24) ∧
  decodeTableWord 56 0xB5A54325C3E10 = some (.frameClose 0x5#4 0xA#4 0x5432#16 0x5C3E10#24) ∧
  decodeTableWord 56 0xF0A54325C3E10 = none

/-! ### The Frame Encoder -/

/-- The field table of 30_encoding.md R78: for a code in both domains, `ENCODE` answers the frame whose fields it
lists, for every button and repeat. The places of the fields rest on the packing of 40_frame_encoder.md R105, which
the spec marks as general knowledge (log 11). -/
def Obligations.FrameFields : Prop :=
  ∀ (cfg : Config) (serial code : U32) (button rep : Nat), inDomain cfg code = true →
    encodeFrame cfg serial code button rep = .frame (specFrame { cfg with serial := serial } code button rep)

/-- 40_frame_encoder.md R102: the error exactly when an index is outside its domain, whatever the button and the
repeat; otherwise the later steps get the encode-table entry of the code. -/
def Obligations.InvalidCodeIndexExactly : Prop :=
  ∀ (cfg : Config) (serial code : U32) (button rep : Nat),
    (encodeFrame cfg serial code button rep = .invalidCodeIndex code ↔
      (cfg.encodeTable.size ≤ code.toNat ∨ cfg.kiTable.size ≤ (code &&& 0xFF#32).toNat)) ∧
    (code.toNat < cfg.encodeTable.size → (code &&& 0xFF#32).toNat < cfg.kiTable.size →
      ∃ enc ki, cfg.encodeTable.read code.toNat = some enc ∧ cfg.kiTable.read (code &&& 0xFF#32).toNat = some ki ∧
        encodeFrame cfg serial code button rep = .frame (frameOf serial enc (keystreamByte ki enc) button rep))

/-- The consequences (a) to (e) of 30_encoding.md R79, which rest on the packing of 40_frame_encoder.md R105, general
knowledge by the spec's own mark (log 11). -/
def Obligations.FrameConsequences : Prop :=
  (∀ (cfg : Config) (serial code : U32) (b : Button) (rep : Nat) (f : Frame),
    encodeFrame cfg serial code b.code rep = .frame f →
      f.extractLsb' 48 4 = buttonNibble b ∧ f.extractLsb' 44 4 = BitVec.ofNat 4 (rep ^^^ b.code)) ∧
  ([1, 2, 3, 4, 5, 6].map fun rep => rep ^^^ Button.btnOpen.code) = [0, 3, 2, 5, 4, 7] ∧
  ([1, 2, 3, 4, 5, 6].map fun rep => rep ^^^ Button.btnStop.code) = [3, 0, 1, 6, 7, 4] ∧
  ([1, 2, 3, 4, 5, 6].map fun rep => rep ^^^ Button.btnClose.code) = [5, 6, 7, 0, 1, 2] ∧
  (∀ (cfg : Config) (serial code : U32) (button rep rep' : Nat) (f f' : Frame),
    encodeFrame cfg serial code button rep = .frame f → encodeFrame cfg serial code button rep' = .frame f' →
      ∀ j, ¬(44 ≤ j ∧ j ≤ 47) → f.getLsbD j = f'.getLsbD j) ∧
  (∀ (cfg : Config) (serial serial' code : U32) (button rep : Nat),
    serial.setWidth 28 = serial'.setWidth 28 →
      encodeFrame cfg serial code button rep = encodeFrame cfg serial' code button rep) ∧
  (∀ (cfg : Config) (serial code : U32) (button rep : Nat),
    encodeFrame cfg serial code button rep = encodeFrame cfg serial code (button % 16) (rep % 16))

/-- Every frame the Controller can ask for is a row of the opcode table: the row of its button (packing:
log 11). -/
def Obligations.EncodedFramesAreRows : Prop :=
  ∀ (cfg : Config) (serial code : U32) (b : Button) (rep : Nat) (f : Frame),
    encodeFrame cfg serial code b.code rep = .frame f →
      ∃ r sn e k, decodeFrame f = some (frameInstr b r sn e k) ∧ r = BitVec.ofNat 4 (rep ^^^ b.code)

/-! ### The Pulse-Train Serializer -/

/-- 41_pulse_serializer.md R133: the index layout of a pulse train. -/
def Obligations.TrainLayout : Prop :=
  ∀ f : Frame,
    (serialize f).length = 109 ∧
    (serialize f)[0]? = some ⟨.high, 1500⟩ ∧ (serialize f)[1]? = some ⟨.low, 1500⟩ ∧
    (∀ k, k ≤ 51 →
      (serialize f)[2 + 2 * k]? = some ⟨.high, if f.getLsbD (51 - k) then 500 else 1000⟩ ∧
      (serialize f)[3 + 2 * k]? = some ⟨.low, if f.getLsbD (51 - k) then 1000 else 500⟩) ∧
    (serialize f)[106]? = some ⟨.high, 1500⟩ ∧ (serialize f)[107]? = some ⟨.low, 1500⟩ ∧
    (serialize f)[108]? = some ⟨.low, 15000⟩

/-- 41_pulse_serializer.md R134 (a) to (d). -/
def Obligations.TrainProperties : Prop :=
  (∀ f : Frame, (serialize f).length = 109) ∧
  (∀ f : Frame, (serialize f).take 2 = [⟨.high, 1500⟩, ⟨.low, 1500⟩] ∧
    ((serialize f).drop 106).take 2 = [⟨.high, 1500⟩, ⟨.low, 1500⟩]) ∧
  (∀ (f : Frame) (j i : Nat), j ≤ 51 → i < 109 →
    ((serialize (f ^^^ (1#52 <<< j)))[i]? ≠ (serialize f)[i]? ↔
      i = 2 + 2 * (51 - j) ∨ i = 3 + 2 * (51 - j))) ∧
  (∀ f g : Frame, f = g → serialize f = serialize g)

/-- The pulses of a frame by the procedure of 41_pulse_serializer.md: sync, the 52 bits most significant first, sync,
gap. That these are 109 pulses of 99000 microseconds in all is the spec's own inference (30_encoding.md, "A pulse train
is always 109 pulses"). -/
def Obligations.TrainDuration : Prop :=
  ∀ f : Frame,
    serialize f = [⟨.high, 1500⟩, ⟨.low, 1500⟩] ++
      (List.range 52).flatMap (fun k =>
        if f.getLsbD (51 - k) then [⟨.high, 500⟩, ⟨.low, 1000⟩] else [⟨.high, 1000⟩, ⟨.low, 500⟩]) ++
      [⟨.high, 1500⟩, ⟨.low, 1500⟩] ++ [⟨.low, 15000⟩] ∧
    (serialize f).length = 109 ∧ ((serialize f).map Pulse.micros).sum = 99000

/-- A pulse train determines its frame: no bit of a frame is lost on the way to the Driver. -/
def Obligations.TrainDeterminesFrame : Prop :=
  ∀ f g : Frame, serialize f = serialize g → f = g

/-! ### The Rolling-Code Store -/

/-- 42_rolling_code_store.md R153: at startup the stored value is loaded, `START_CODE` where the Storage reads
`None` (nothing stored, or unreadable); the Storage is not written and no flag is. -/
def Obligations.LoadChoosesCode : Prop :=
  ∀ s : State, s.phase = .reset →
    (∀ v, s.env = [] → s.stored = some v →
      ∃ t, step s = .next t ∧ t.code = v ∧ t.stored = some v ∧ t.known = s.known ∧ t.moving = s.moving) ∧
    (s.env = [] → s.stored = none →
      ∃ t, step s = .next t ∧ t.code = s.cfg.startCode ∧ t.stored = none ∧ t.known = s.known ∧ t.moving = s.moving) ∧
    (s.env = [.unreadable] →
      ∃ t, step s = .next t ∧ t.code = s.cfg.startCode ∧ t.stored = s.stored ∧ t.known = s.known ∧
        t.moving = s.moving)

/-- The Storage's answer ends `ADVANCE`: `CODE` is committed whatever the answer is, `STORED` only on `Ok`, a
failed write is reported, and the burst returns its result to its rule. -/
def Obligations.WriteAnswerCommits : Prop :=
  ∀ (s : State) (ctx : Ctx) (new : U32) (r : BurstResult) (a : Answer) (es : List EnvEvent),
    s.phase = .persist ctx new r → s.env = .storage a :: es →
      step s = .next (returnTo ctx r
        { s with
          env := es
          code := new
          stored := if a = .ok then some new else s.stored
          evlog := s.evlog ++ if a = .err then [.persistenceFailure new] else [] })

/-- A burst at the top of the code range: its frames are sent, `ADVANCE` reports `CodeExhausted`, writes nothing
and halts the Controller; the command publishes no snapshot and reports no `Done`. That `KNOWN` and `POS` are kept is the
model's reading (log 9). -/
def Obligations.CodeExhaustedHalts : Prop :=
  ∀ (s : State) (c : Command) (b : Button) (n : Nat) (rest : List EnvEvent),
    oneBurst c = some b → s.code = 0xFFFFFFFF#32 → inDomain s.cfg s.code = true →
    (s.env = List.replicate 6 (.driver .ok) ++ rest →
      exec c.toInstr s = .next
        { s with
          phase := .halted .codeExhausted
          txlog := s.txlog ++ okEntries s.cfg s.code b 6
          evlog := s.evlog ++ [.codeExhausted 0xFFFFFFFF#32]
          env := rest }) ∧
    (n < 6 → s.env = List.replicate n (.driver .ok) ++ .driver .err :: rest →
      exec c.toInstr s = .next
        { s with
          phase := .halted .codeExhausted
          txlog := s.txlog ++ okEntries s.cfg s.code b n ++ [specEntry s.cfg s.code b (n + 1) .err]
          evlog := s.evlog ++ [.codeExhausted 0xFFFFFFFF#32]
          env := rest })

/-- The codes run out in a burst of a `SET_POSITION`: its frames are sent, the Controller halts, no snapshot, no `Done`;
the command has ended, so `MOVING` is 0 after the direction burst and after the final `STOP` burst, and the re-homing
burst, before which it was not set, leaves it. That `KNOWN` and `POS` are kept is the model's reading (log 9). -/
def Obligations.CodeExhaustedHaltsSetPosition : Prop :=
  ∀ (s : State) (t : Byte) (n : Nat) (a : Answer) (rest : List EnvEvent),
    s.cfg.tTotal ≠ 0 → t.toNat ≤ 100 → n < 6 → inDomain s.cfg 0xFFFFFFFF#32 = true →
    let oks : List EnvEvent := List.replicate 6 (.driver .ok) ++ rest
    let errs : List EnvEvent := List.replicate n (.driver .ok) ++ .driver .err :: rest
    let sent (b : Button) : List TxEntry := okEntries s.cfg 0xFFFFFFFF#32 b 6
    let failed (b : Button) : List TxEntry :=
      okEntries s.cfg 0xFFFFFFFF#32 b n ++ [specEntry s.cfg 0xFFFFFFFF#32 b (n + 1) .err]
    let dir : Button := (dirTo s.cfg s.pos t).button
    (s.code = 0xFFFFFFFF#32 → s.known = true → s.pos.toNat ≠ t.toNat →
      (s.env = oks →
        exec (.setPosition t) s = .next { exhausted (sent dir) s with moving := false, env := rest }) ∧
      (s.env = errs →
        exec (.setPosition t) s = .next { exhausted (failed dir) s with moving := false, env := rest })) ∧
    (s.code = 0xFFFFFFFE#32 → inDomain s.cfg 0xFFFFFFFE#32 = true → s.known = true → s.pos.toNat ≠ t.toNat →
      (s.env = burstAnswers a ++ .elapsed :: oks →
        exec (.setPosition t) s = .next
          { exhausted (sent .btnStop) (afterBurst dir a s) with moving := false, env := rest }) ∧
      (s.env = burstAnswers a ++ .elapsed :: errs →
        exec (.setPosition t) s = .next
          { exhausted (failed .btnStop) (afterBurst dir a s) with moving := false, env := rest })) ∧
    (s.code = 0xFFFFFFFF#32 → s.known = false →
      (s.env = oks →
        exec (.setPosition t) s = .next { exhausted (sent s.cfg.refButton.button) s with env := rest }) ∧
      (s.env = errs →
        exec (.setPosition t) s = .next { exhausted (failed s.cfg.refButton.button) s with env := rest }))

/-- Once halted, the Controller never steps again: with no external move the step faults, and a step that does
happen, other than a restart, is the Host's and leaves every register of the Controller as it was (the model's
reading: log 9, log 10). -/
def Obligations.HaltedNeverSteps : Prop :=
  ∀ (s : State) (r : HaltReason), s.phase = .halted r →
    (s.env = [] → step s = .fault .codeExhausted) ∧
    (∀ t, step s = .next t → s.env.head? ≠ some .restart →
      t.phase = s.phase ∧ t.code = s.code ∧ t.pos = s.pos ∧ t.known = s.known ∧ t.moving = s.moving ∧
        t.stored = s.stored ∧ t.txlog = s.txlog ∧ s.cmdq <+: t.cmdq)

/-! ### The commands -/

/-- `OPEN`, every answer of the Driver `Ok`, whatever the Storage answers.
One step runs the whole rule (log 3). -/
def Obligations.OpenCompletes : Prop :=
  ∀ (s : State) (a : Answer) (rest : List EnvEvent),
    inDomain s.cfg s.code = true → s.code ≠ 0xFFFFFFFF#32 → s.env = burstAnswers a ++ rest →
      exec .openCover s = .next (concluded .openCover .ok
        { afterBurst .btnOpen a s with pos := 100#7 - closedPos s.cfg, known := true, env := rest })

/-- `CLOSE`, every answer of the Driver `Ok`, whatever the Storage answers.
One step runs the whole rule (log 3). -/
def Obligations.CloseCompletes : Prop :=
  ∀ (s : State) (a : Answer) (rest : List EnvEvent),
    inDomain s.cfg s.code = true → s.code ≠ 0xFFFFFFFF#32 → s.env = burstAnswers a ++ rest →
      exec .closeCover s = .next (concluded .closeCover .ok
        { afterBurst .btnClose a s with pos := closedPos s.cfg, known := true, env := rest })

/-- `STOP`, every answer of the Driver `Ok`: the position is kept and no longer known.
One step runs the whole rule (log 3). -/
def Obligations.StopCompletes : Prop :=
  ∀ (s : State) (a : Answer) (rest : List EnvEvent),
    inDomain s.cfg s.code = true → s.code ≠ 0xFFFFFFFF#32 → s.env = burstAnswers a ++ rest →
      exec .stopCover s = .next (concluded .stopCover .ok { afterBurst .btnStop a s with known := false, env := rest })

/-- `SET_POSITION(t)` from a known position other than `t`: a burst toward `t`, the wait, the `STOP` burst.
One step runs the whole rule (log 3). -/
def Obligations.SetPositionCompletes : Prop :=
  ∀ (s : State) (t : Byte) (a₁ a₂ : Answer) (rest : List EnvEvent),
    s.cfg.tTotal ≠ 0 → s.known = true → t.toNat ≤ 100 → s.pos.toNat ≠ t.toNat →
    inDomain s.cfg s.code = true → inDomain s.cfg (s.code + 1#32) = true → s.code.toNat < 0xFFFFFFFE →
    s.env = burstAnswers a₁ ++ .elapsed :: (burstAnswers a₂ ++ rest) →
      exec (.setPosition t) s = .next (concluded (.setPosition t) .ok
        { afterBurst .btnStop a₂ (afterBurst (dirTo s.cfg s.pos t).button a₁ s) with
          pos := t.setWidth 7, known := true, moving := false, env := rest })

/-- `SET_POSITION(t)` after its direction burst, nothing queued and nothing more from outside: it waits the exact
`|POS - t| * T_TOTAL / 100` seconds, with `MOVING` 1 and `POS` not yet changed. -/
def Obligations.SetPositionWaits : Prop :=
  ∀ (s : State) (t : Byte) (a : Answer),
    s.cfg.tTotal ≠ 0 → s.known = true → t.toNat ≤ 100 → s.pos.toNat ≠ t.toNat → s.cmdq = [] →
    inDomain s.cfg s.code = true → s.code ≠ 0xFFFFFFFF#32 → s.env = burstAnswers a →
      ∃ d : Rat, d * 100 = |(s.pos.toNat : Rat) - t.toNat| * s.cfg.tTotal ∧
        exec (.setPosition t) s = .next
          { afterBurst (dirTo s.cfg s.pos t).button a s with phase := .wait t d, moving := true, env := [] }

/-- `SET_POSITION(POS)` from a known position: no burst, no code consumed, one snapshot. -/
def Obligations.SetPositionAtTarget : Prop :=
  ∀ (s : State) (t : Byte), s.cfg.tTotal ≠ 0 → s.known = true → s.pos.toNat = t.toNat →
    exec (.setPosition t) s = .next (concluded (.setPosition t) .ok s)

/-- `SET_POSITION(t)` from an unknown position: the reference move with its own snapshot, then the move to `t`
from the reference extreme; three codes are consumed.
One step runs the whole rule (log 3). -/
def Obligations.SetPositionRehomes : Prop :=
  ∀ (s : State) (t : Byte) (a₁ a₂ a₃ : Answer) (rest : List EnvEvent),
    s.cfg.tTotal ≠ 0 → s.known = false → t.toNat ≤ 100 → (refPos s.cfg).toNat ≠ t.toNat →
    inDomain s.cfg s.code = true → inDomain s.cfg (s.code + 1#32) = true → inDomain s.cfg (s.code + 2#32) = true →
    s.code.toNat < 0xFFFFFFFD →
    s.env = burstAnswers a₁ ++ (burstAnswers a₂ ++ .elapsed :: (burstAnswers a₃ ++ rest)) →
      let s₁ : State := afterBurst s.cfg.refButton.button a₁ s
      let s₂ : State := { s₁ with publog := s₁.publog ++ [snapshotOf s.cfg (refPos s.cfg)] }
      exec (.setPosition t) s = .next (concluded (.setPosition t) .ok
        { afterBurst .btnStop a₃ (afterBurst (dirTo s.cfg (refPos s.cfg) t).button a₂ s₂) with
          pos := t.setWidth 7, known := true, moving := false, env := rest })

/-- `SET_POSITION` of the reference extreme from an unknown position: the reference move is the whole of it, and
two snapshots are published. -/
def Obligations.SetPositionToReference : Prop :=
  ∀ (s : State) (t : Byte) (a : Answer) (rest : List EnvEvent),
    s.cfg.tTotal ≠ 0 → s.known = false → (refPos s.cfg).toNat = t.toNat →
    inDomain s.cfg s.code = true → s.code ≠ 0xFFFFFFFF#32 → s.env = burstAnswers a ++ rest →
      let s₁ : State := afterBurst s.cfg.refButton.button a s
      exec (.setPosition t) s = .next (concluded (.setPosition t) .ok
        { s₁ with
          pos := refPos s.cfg, known := true, env := rest
          publog := s₁.publog ++ [snapshotOf s.cfg (refPos s.cfg)] })

/-- 43_cover_controller.md R177: a `SET_POSITION` taken from `CMDQ` while `T_TOTAL = 0` is refused and changes
nothing but `PHASE` and the log. -/
def Obligations.SetPositionRefused : Prop :=
  ∀ (s : State) (t : Byte) (q : List Command), s.cfg.tTotal = 0 →
    exec (.setPosition t) s = .next
      { s with phase := .idle, evlog := s.evlog ++ [.invalidCommandPayload (.refused (.setPosition t))] } ∧
    (s.phase = .idle → s.env = [] → s.cmdq = .setPosition t :: q →
      step s = .next
        { s with cmdq := q, evlog := s.evlog ++ [.invalidCommandPayload (.refused (.setPosition t))] })

/-- A wait with a command queued ends `Cancelled`: no `STOP` burst, `POS` kept, `KNOWN` and `MOVING` cleared, the
queued command still at the head of `CMDQ`; whether it was queued before the wait or is delivered during it.
That the end of the listed moves cancels the wait is the model's choice (log 3). -/
def Obligations.SetPositionCancelled : Prop :=
  ∀ (s : State) (t : Byte) (a : Answer) (rest : List EnvEvent),
    s.cfg.tTotal ≠ 0 → s.known = true → t.toNat ≤ 100 → s.pos.toNat ≠ t.toNat →
    inDomain s.cfg s.code = true → s.code ≠ 0xFFFFFFFF#32 →
    (s.cmdq ≠ [] → s.env = burstAnswers a ++ .proceed :: rest →
      exec (.setPosition t) s = .next (concluded (.setPosition t) .cancelled
        { afterBurst (dirTo s.cfg s.pos t).button a s with known := false, moving := false, env := rest })) ∧
    (∀ raw c, decodeRaw raw = some c → hasRoom s = true → s.env = burstAnswers a ++ [.deliver raw] →
      exec (.setPosition t) s = .next (concluded (.setPosition t) .cancelled
        { afterBurst (dirTo s.cfg s.pos t).button a s with
          known := false, moving := false, cmdq := s.cmdq ++ [c], env := [] }))

/-! ### Errors -/

/-- A command's first burst whose code is outside a table's domain: nothing is sent, no code is consumed, `POS` and `KNOWN` are
kept, one snapshot, `Done` with `InvalidCodeIndex`; for every command that starts with a burst. -/
def Obligations.InvalidCodeEndsCommand : Prop :=
  ∀ (s : State), inDomain s.cfg s.code = false →
    (∀ c b, oneBurst c = some b →
      exec c.toInstr s = .next (concluded c (.invalidCodeIndex s.code) s)) ∧
    (∀ t : Byte, s.cfg.tTotal ≠ 0 → s.known = true → s.pos.toNat ≠ t.toNat →
      exec (.setPosition t) s = .next
        (concluded (.setPosition t) (.invalidCodeIndex s.code) { s with moving := false })) ∧
    (∀ t : Byte, s.cfg.tTotal ≠ 0 → s.known = false →
      exec (.setPosition t) s = .next (concluded (.setPosition t) (.invalidCodeIndex s.code) s))

/-- A later burst of a `SET_POSITION` whose code is outside a table's domain, the codes of the bursts before it
consumed: on the final `STOP` burst `KNOWN` and `MOVING` are cleared and `POS` is kept (the cover may still be moving);
on the direction burst after a re-homing move `KNOWN` and the reference position stay. One more snapshot and a `Done`
that names the code in both cases. -/
def Obligations.InvalidCodeEndsLaterBurst : Prop :=
  ∀ (s : State) (t : Byte) (a₁ a₂ : Answer) (rest : List EnvEvent),
    s.cfg.tTotal ≠ 0 → t.toNat ≤ 100 → inDomain s.cfg s.code = true → s.code.toNat < 0xFFFFFFFE →
    (s.known = true → s.pos.toNat ≠ t.toNat → inDomain s.cfg (s.code + 1#32) = false →
      s.env = burstAnswers a₁ ++ .elapsed :: rest →
      exec (.setPosition t) s = .next (concluded (.setPosition t) (.invalidCodeIndex (s.code + 1#32))
        { afterBurst (dirTo s.cfg s.pos t).button a₁ s with known := false, moving := false, env := rest })) ∧
    (s.known = false → (refPos s.cfg).toNat ≠ t.toNat → inDomain s.cfg (s.code + 1#32) = false →
      s.env = burstAnswers a₁ ++ rest →
      exec (.setPosition t) s = .next (concluded (.setPosition t) (.invalidCodeIndex (s.code + 1#32))
        { rehomed a₁ s with moving := false, env := rest })) ∧
    (s.known = false → (refPos s.cfg).toNat ≠ t.toNat → inDomain s.cfg (s.code + 1#32) = true →
      inDomain s.cfg (s.code + 2#32) = false → s.env = burstAnswers a₁ ++ (burstAnswers a₂ ++ .elapsed :: rest) →
      exec (.setPosition t) s = .next (concluded (.setPosition t) (.invalidCodeIndex (s.code + 2#32))
        { afterBurst (dirTo s.cfg (refPos s.cfg) t).button a₂ (rehomed a₁ s) with
          known := false, moving := false, env := rest }))

/-- The Driver fails repeat `n + 1` of `OPEN`, `CLOSE` or `STOP`: the later frames are not sent, the code is
consumed, `KNOWN` is cleared, `POS` is kept; a failed write is reported before the `Done`. -/
def Obligations.DriverFailureEndsCommand : Prop :=
  ∀ (s : State) (c : Command) (b : Button) (n : Nat) (a : Answer) (rest : List EnvEvent),
    oneBurst c = some b → n < 6 → inDomain s.cfg s.code = true → s.code ≠ 0xFFFFFFFF#32 →
    s.env = failedAnswers n a ++ rest →
      exec c.toInstr s = .next (concluded c (.driverFailure s.code (n + 1))
        { afterFailedBurst b n a s with known := false, env := rest })

/-- The Driver fails a burst of a `SET_POSITION`, with or without a re-homing move before it: the command ends there,
the failed burst's code is consumed and `KNOWN` is cleared. A failed direction or final `STOP` burst clears `MOVING` and
keeps the position the estimate started from. A failed re-homing burst comes before `MOVING` is set: it leaves `MOVING`
and `POS` as they were. -/
def Obligations.DriverFailureEndsSetPosition : Prop :=
  ∀ (s : State) (t : Byte) (n : Nat) (a₁ a₂ a₃ : Answer) (rest : List EnvEvent),
    s.cfg.tTotal ≠ 0 → t.toNat ≤ 100 → n < 6 → inDomain s.cfg s.code = true → s.code.toNat < 0xFFFFFFFE →
    (s.known = true → s.pos.toNat ≠ t.toNat → s.env = failedAnswers n a₁ ++ rest →
      exec (.setPosition t) s = .next (concluded (.setPosition t) (.driverFailure s.code (n + 1))
        { afterFailedBurst (dirTo s.cfg s.pos t).button n a₁ s with
          known := false, moving := false, env := rest })) ∧
    (s.known = true → s.pos.toNat ≠ t.toNat → inDomain s.cfg (s.code + 1#32) = true →
      s.env = burstAnswers a₁ ++ .elapsed :: (failedAnswers n a₂ ++ rest) →
      exec (.setPosition t) s = .next (concluded (.setPosition t) (.driverFailure (s.code + 1#32) (n + 1))
        { afterFailedBurst .btnStop n a₂ (afterBurst (dirTo s.cfg s.pos t).button a₁ s) with
          known := false, moving := false, env := rest })) ∧
    (s.known = false → s.env = failedAnswers n a₁ ++ rest →
      exec (.setPosition t) s = .next (concluded (.setPosition t) (.driverFailure s.code (n + 1))
        { afterFailedBurst s.cfg.refButton.button n a₁ s with known := false, env := rest })) ∧
    (s.known = false → (refPos s.cfg).toNat ≠ t.toNat → inDomain s.cfg (s.code + 1#32) = true →
      s.env = burstAnswers a₁ ++ (failedAnswers n a₂ ++ rest) →
      exec (.setPosition t) s = .next (concluded (.setPosition t) (.driverFailure (s.code + 1#32) (n + 1))
        { afterFailedBurst (dirTo s.cfg (refPos s.cfg) t).button n a₂ (rehomed a₁ s) with
          known := false, moving := false, env := rest })) ∧
    (s.known = false → (refPos s.cfg).toNat ≠ t.toNat → inDomain s.cfg (s.code + 1#32) = true →
      inDomain s.cfg (s.code + 2#32) = true → s.code.toNat < 0xFFFFFFFD →
      s.env = burstAnswers a₁ ++ (burstAnswers a₂ ++ .elapsed :: (failedAnswers n a₃ ++ rest)) →
      exec (.setPosition t) s = .next (concluded (.setPosition t) (.driverFailure (s.code + 2#32) (n + 1))
        { afterFailedBurst .btnStop n a₃
            (afterBurst (dirTo s.cfg (refPos s.cfg) t).button a₂ (rehomed a₁ s)) with
          known := false, moving := false, env := rest }))

/-! ### The frames -/

/-- Each frame instruction, at its button's `TX` phase with the Driver's answer: the pulse train of its word is
logged, and the burst goes on with the next repeat's frame, or with `ADVANCE`. A repeat above 6, and a code outside the
tables before repeat 6, which no legal state has, are left out. A frame row as the transmission of one repeat is the
model's choice (log 8). That `KNOWN` and `POS` are kept where `ADVANCE` finds no next code, also when the Driver has
failed the burst, is the model's reading (log 9). -/
def Obligations.FrameTransmits : Prop :=
  ∀ (s : State) (b : Button) (r sn : BitVec 4) (e : BitVec 16) (k : BitVec 24) (ctx : Ctx) (rep : Nat) (f : Frame)
    (a : Answer) (es : List EnvEvent),
    s.phase = .tx ctx b rep f → s.env = .driver a :: es →
      let word : Frame := buttonNibble b ++ r ++ sn ++ e ++ k
      let s' : State := { s with
        env := es, txlog := s.txlog ++ [⟨s.code, b, rep, serialize word, a⟩] }
      let result : BurstResult := if a = .ok then .ok else .driverFailure s.code rep
      (a = .ok → rep < 6 → inDomain s.cfg s.code = true →
        exec (frameInstr b r sn e k) s = .next
          { s' with phase := .tx ctx b (rep + 1) (specFrame s.cfg s.code b.code (rep + 1)) }) ∧
      (a = .err ∨ rep = 6 → s.code ≠ 0xFFFFFFFF#32 →
        exec (frameInstr b r sn e k) s = .next { s' with phase := .persist ctx (s.code + 1#32) result }) ∧
      (a = .err ∨ rep = 6 → s.code = 0xFFFFFFFF#32 →
        exec (frameInstr b r sn e k) s = .next
          { s' with
            phase := .halted .codeExhausted
            moving := if ctxMoving ctx then false else s.moving
            evlog := s.evlog ++ [.codeExhausted 0xFFFFFFFF#32] })

/-- The model's choice (log 8): a frame instruction changes nothing while the Driver has not answered, outside a
`TX` phase, and in a `TX` phase of another button. -/
def Obligations.FrameOtherwiseInert : Prop :=
  ∀ (s : State) (b : Button) (r sn : BitVec 4) (e : BitVec 16) (k : BitVec 24),
    ((∀ a, s.env.head? ≠ some (.driver a)) ∨ (∀ ctx rep f, s.phase ≠ .tx ctx b rep f)) →
      exec (frameInstr b r sn e k) s = .next s

/-! ### Frame conditions -/

/-- What a command leaves unchanged, for every list of external moves: the configuration (the tables with it), the
entries of the histories and of `CMDQ`; `STOP` never writes `POS` or `MOVING`, `OPEN` and `CLOSE` never write
`MOVING` and move `POS` only to their extreme, `SET_POSITION` only to the reference extreme or its target. -/
def Obligations.CommandFrame : Prop :=
  ∀ (s s' : State) (c : Command), exec c.toInstr s = .next s' →
    s'.cfg = s.cfg ∧ s.txlog <+: s'.txlog ∧ s.publog <+: s'.publog ∧ s.evlog <+: s'.evlog ∧ s.cmdq <+: s'.cmdq ∧
    (c = .stopCover → s'.pos = s.pos ∧ s'.moving = s.moving) ∧
    (c = .openCover → (s'.pos = s.pos ∨ s'.pos = openPos s.cfg) ∧ s'.moving = s.moving) ∧
    (c = .closeCover → (s'.pos = s.pos ∨ s'.pos = closedPos s.cfg) ∧ s'.moving = s.moving) ∧
    (∀ t, c = .setPosition t → s'.pos = s.pos ∨ s'.pos = refPos s.cfg ∨ s'.pos = t.setWidth 7)

/-! ### The step -/

/-- An idle Controller with a command queued runs it: when nothing comes from outside, when the list says that the
Controller moves next, and when the next external move is not possible now.
That an impossible move stays listed is the model's choice (log 2). -/
def Obligations.StepRunsQueuedCommand : Prop :=
  ∀ (s : State) (c : Command) (q : List Command), s.phase = .idle → s.cmdq = c :: q →
    (s.env = [] → step s = exec c.toInstr { s with cmdq := q }) ∧
    (∀ es, s.env = .proceed :: es → step s = exec c.toInstr { s with cmdq := q, env := es }) ∧
    (∀ e es, s.env = e :: es → accepts e s = false → step s = exec c.toInstr { s with cmdq := q })

/-- A Driver's answer in a `TX` phase runs the frame at the Driver, as the decoder reads it.
The model's choice of what fetches a frame (log 8). -/
def Obligations.StepRunsFrame : Prop :=
  ∀ (s : State) (ctx : Ctx) (b : Button) (rep : Nat) (f : Frame) (a : Answer) (es : List EnvEvent) (i : Instr),
    s.phase = .tx ctx b rep f → s.env = .driver a :: es → decodeFrame f = some i → step s = exec i s

/-- The next step after placing a word runs the instruction the decoder reads from it. A 16-bit value that is no
command is reported by admission where the queue has room, and a frame of a reserved button is refused at the Driver (30_encoding.md R73, R77).
The model's choice of where a value is placed (log 15). -/
def Obligations.PlacedWordRuns : Prop :=
  (∀ (s : State) (w : CommandWord) (c : Command), decode16 w = some c →
    step (s.withFetchWord 16 w.toNat) = exec c.toInstr { s with phase := .idle }) ∧
  (∀ (s : State) (f : Frame) (i : Instr), decodeFrame f = some i →
    step (s.withFetchWord 56 f.toNat) = exec i (s.withFetchWord 56 f.toNat)) ∧
  (∀ (s : State) (w : CommandWord), decode16 w = none →
    (∀ cap, s.cfg.cmdqCap = some cap → s.cmdq.length < cap) →
    step (s.withFetchWord 16 w.toNat) = .next
      { s with phase := .idle, evlog := s.evlog ++ [.invalidCommandPayload (.raw (.word w))] }) ∧
  (∀ (s : State) (f : Frame), decodeFrame f = none → step (s.withFetchWord 56 f.toNat) = .refused .reservedFrame)

/-- The end of a wait, step by step: `Elapsed` starts the `STOP` burst, whether or not a command is queued; with a
command queued the wait is cancelled when the Controller moves next or nothing more comes from outside.
The order is told by the list of moves (log 1, log 17). -/
def Obligations.WaitEnds : Prop :=
  ∀ (s : State) (t : Byte) (d : Rat) (es : List EnvEvent), s.phase = .wait t d →
    (s.env = .elapsed :: es → inDomain s.cfg s.code = true →
      step s = .next
        { s with phase := .tx (.spStop t) .btnStop 1 (specFrame s.cfg s.code 2 1), env := es }) ∧
    (s.cmdq ≠ [] → s.env = .proceed :: es →
      step s = .next (concluded (.setPosition t) .cancelled { s with known := false, moving := false, env := es })) ∧
    (s.cmdq ≠ [] → s.env = [] →
      step s = .next (concluded (.setPosition t) .cancelled { s with known := false, moving := false }))

/-- A Controller that waits for an answer, the Timer or a command keeps all its state while nothing comes from
outside.
The model's choice of what a step is while nothing happens (log 2). -/
def Obligations.WaitingKeepsState : Prop :=
  ∀ s : State, s.env = [] →
    ((∃ ctx b rep f, s.phase = .tx ctx b rep f) ∨ (∃ ctx new r, s.phase = .persist ctx new r) ∨ s.phase = .guard ∨
      (s.cmdq = [] ∧ (s.phase = .idle ∨ ∃ t d, s.phase = .wait t d))) →
      step s = .next s

/-- 30_encoding.md R73: an invalid delivery is reported and changes nothing else, in every phase. (At capacity the Host
makes no delivery, 43_cover_controller.md R186.) -/
def Obligations.InvalidDeliveryReported : Prop :=
  ∀ (s : State) (raw : RawCommand) (es : List EnvEvent), (∀ cap, s.cfg.cmdqCap = some cap → s.cmdq.length < cap) →
    s.env = .deliver raw :: es → decodeRaw raw = none →
      step s = .next { s with env := es, evlog := s.evlog ++ [.invalidCommandPayload (.raw raw)] }

/-- Admission of a decoded command while the queue has room: ignored during startup, else at the queue's tail. -/
def Obligations.DeliveryAdmitted : Prop :=
  ∀ (s : State) (raw : RawCommand) (c : Command) (es : List EnvEvent), (∀ cap, s.cfg.cmdqCap = some cap → s.cmdq.length < cap) →
    s.env = .deliver raw :: es → decodeRaw raw = some c →
    (startupWindow s.phase = true → step s = .next { s with env := es, evlog := s.evlog ++ [.ignored c] }) ∧
    (startupWindow s.phase = false → step s = .next { s with env := es, cmdq := s.cmdq ++ [c] })

/-- A full queue admits no delivery (43_cover_controller.md R186), valid or not, in every phase: the step is the
Controller's own, and with nothing else to do it waits. That the delivery stays listed (log 12) and that the step keeps
the state while the Controller waits (log 2) are the model's choices. That startup and a command run on within one step
is the model's choice too (log 3), and that the step of a halted Controller is a fault is its reading (log 10). -/
def Obligations.FullQueueAdmitsNoDelivery : Prop :=
  ∀ (s : State) (raw : RawCommand) (es : List EnvEvent) (cap : Nat),
    s.env = .deliver raw :: es → s.cfg.cmdqCap = some cap → cap ≤ s.cmdq.length →
    (((∃ ctx b rep f, s.phase = .tx ctx b rep f) ∨ (∃ ctx new r, s.phase = .persist ctx new r) ∨ s.phase = .guard ∨
        (s.cmdq = [] ∧ (s.phase = .idle ∨ ∃ t d, s.phase = .wait t d))) →
      step s = .next s) ∧
    (∀ t d, s.phase = .wait t d → s.cmdq ≠ [] →
      step s = .next (concluded (.setPosition t) .cancelled { s with known := false, moving := false })) ∧
    (∀ c q, s.phase = .idle → s.cmdq = c :: q → step s = exec c.toInstr { s with cmdq := q }) ∧
    (∀ code, s.phase = .reset → code = s.stored.getD s.cfg.startCode → inDomain s.cfg code = true →
      step s = .next
        { s with
          code := code
          phase := .tx .startupRef s.cfg.refButton.button 1
            (specFrame s.cfg code s.cfg.refButton.button.code 1) }) ∧
    (∀ code, s.phase = .reset → code = s.stored.getD s.cfg.startCode → inDomain s.cfg code = false →
      step s = .next
        { s with
          code := code
          phase := .guard
          publog := s.publog ++ [snapshotOf s.cfg s.pos]
          evlog := s.evlog ++ [.done .reference (.invalidCodeIndex code)] }) ∧
    (∀ reason, s.phase = .halted reason → step s = .fault .codeExhausted)

/-- 43_cover_controller.md R185 with 30_encoding.md R85: `Reconnect` appends the snapshot of the current `POS` and
changes nothing else, in every phase. -/
def Obligations.ReconnectPublishes : Prop :=
  ∀ (s : State) (es : List EnvEvent), s.env = .reconnect :: es →
    step s = .next
      { s with
        env := es
        publog := s.publog ++
          [{ state := if s.pos = closedPos s.cfg then .closed
                      else if s.pos = 100#7 - closedPos s.cfg then .opened else .partiallyOpen
             position := s.pos }] }

/-- A restart, in every phase, puts every register at its reset value and keeps the configuration, `STORED` and the
histories.
What becomes of a command in progress is the model's reading (log 14, log 26). -/
def Obligations.RestartResets : Prop :=
  ∀ (s : State) (es : List EnvEvent), s.env = .restart :: es →
    step s = .next
      { s with
        env := es
        code := match s.stored with | some v => v | none => s.cfg.startCode
        pos := refPos s.cfg
        known := false
        moving := false
        phase := .reset
        cmdq := [] }

/-- The startup procedure, every answer of the Driver `Ok`: the code is loaded, the reference move made, its `Done`
reported, the guard waited out; a command delivered during the guard is ignored.
One step runs the whole procedure (log 3). -/
def Obligations.StartupCompletes : Prop :=
  ∀ (s : State) (code : U32) (a : Answer) (rest : List EnvEvent),
    s.phase = .reset → code = s.stored.getD s.cfg.startCode → inDomain s.cfg code = true → code ≠ 0xFFFFFFFF#32 →
      let s₁ : State := afterBurst s.cfg.refButton.button a { s with code := code }
      let s₂ : State := { s₁ with
        pos := refPos s.cfg, known := true, phase := .idle, env := rest
        publog := s.publog ++ [snapshotOf s.cfg (refPos s.cfg)]
        evlog := s₁.evlog ++ [.done .reference .ok] }
      (s.env = burstAnswers a ++ .elapsed :: rest → step s = .next s₂) ∧
      (∀ raw c, decodeRaw raw = some c → (∀ cap, s.cfg.cmdqCap = some cap → s.cmdq.length < cap) →
        s.env = burstAnswers a ++ .deliver raw :: .elapsed :: rest →
        step s = .next { s₂ with evlog := s₂.evlog ++ [.ignored c] })

/-- 70_reset_and_hazards.md R251: what a successful startup reference move leaves, after the first reset and after
every restart (`MOVING` has its reset value when startup begins). -/
def Obligations.ReferenceMoveLeaves : Prop :=
  ∀ (s : State) (loaded : U32) (a : Answer) (rest : List EnvEvent),
    s.phase = .reset → s.moving = false → loaded = s.stored.getD s.cfg.startCode →
    inDomain s.cfg loaded = true → loaded ≠ 0xFFFFFFFF#32 → s.env = burstAnswers a ++ .elapsed :: rest →
      ∃ t, step s = .next t ∧ t.pos = refPos s.cfg ∧ t.known = true ∧ t.moving = false ∧ t.code = loaded + 1#32 ∧
        t.publog = s.publog ++ [snapshotOf s.cfg (refPos s.cfg)] ∧ t.phase = .idle

/-- A failed startup: with `InvalidCodeIndex` nothing is sent and `POS` and `KNOWN` are kept; with `DriverFailure`
the code is consumed and `KNOWN` is 0. The guard and `IDLE` follow in both cases. -/
def Obligations.StartupFailures : Prop :=
  ∀ (s : State) (code : U32) (n : Nat) (a : Answer) (rest : List EnvEvent),
    s.phase = .reset → code = s.stored.getD s.cfg.startCode →
    (inDomain s.cfg code = false → s.env = .elapsed :: rest →
      step s = .next
        { s with
          code := code, phase := .idle, env := rest
          publog := s.publog ++ [snapshotOf s.cfg s.pos]
          evlog := s.evlog ++ [.done .reference (.invalidCodeIndex code)] }) ∧
    (n < 6 → inDomain s.cfg code = true → code ≠ 0xFFFFFFFF#32 → s.env = failedAnswers n a ++ .elapsed :: rest →
      let s₁ : State := afterFailedBurst s.cfg.refButton.button n a { s with code := code }
      step s = .next
        { s₁ with
          known := false, phase := .idle, env := rest
          publog := s.publog ++ [snapshotOf s.cfg s.pos]
          evlog := s₁.evlog ++ [.done .reference (.driverFailure code (n + 1))] })

/-! ### Invariants -/

/-- The reset state of every configuration and every stored code meets the invariants that the steps keep: it is legal
where the configuration is, its log is faithful, its codes are in order and `STORED` is not ahead. So does `State.reset`,
whose configuration is the model's choice (log 5). -/
def Obligations.ResetLegal : Prop :=
  (∀ (cfg : Config) (stored : Option U32),
    (configWf cfg = true → (State.resetWith cfg stored).Legal) ∧ (State.resetWith cfg stored).LogFaithful ∧
      (State.resetWith cfg stored).CodesInOrder ∧ (State.resetWith cfg stored).StoredBehind) ∧
    State.reset.Legal ∧ State.reset.LogFaithful ∧ State.reset.CodesInOrder ∧ State.reset.StoredBehind

/-- Every step keeps a legal state legal. -/
def Obligations.StepKeepsLegal : Prop :=
  ∀ s s' : State, s.Legal → step s = .next s' → s'.Legal

/-- Every step keeps the log of transmissions faithful to `ENCODE` and `SERIALIZE`. -/
def Obligations.StepKeepsLogFaithful : Prop :=
  ∀ s s' : State, s.Legal → s.LogFaithful → step s = .next s' → s'.LogFaithful

/-- Every step but a restart keeps the codes in order: one code per burst, no gap, no repeat. -/
def Obligations.StepKeepsCodesInOrder : Prop :=
  ∀ s s' : State, s.Legal → s.CodesInOrder → s.env.head? ≠ some .restart → step s = .next s' → s'.CodesInOrder

/-- With the codes in order, two transmissions of one code are the same burst: same button, another repeat. -/
def Obligations.CodesNeverReused : Prop :=
  ∀ (s : State) (i j : Nat) (p q : TxEntry), s.CodesInOrder → i < j → s.txlog[i]? = some p → s.txlog[j]? = some q →
    p.code = q.code → p.button = q.button ∧ p.rep < q.rep

/-- Every step keeps `STORED` from running ahead of `CODE`, startup and restart included. The one exception is startup
with an unreadable stored value, which loads `START_CODE` and leaves `STORED` (42_rolling_code_store.md R153, log 13). -/
def Obligations.StepKeepsStoredBehind : Prop :=
  ∀ s s' : State, s.Legal → s.StoredBehind → (s.phase = .reset → s.env.head? ≠ some .unreadable) →
    step s = .next s' → s'.StoredBehind

/-- The configuration, its tables with it, never changes, and the histories only grow, in every state. -/
def Obligations.HistoriesOnlyGrow : Prop :=
  ∀ s s' : State, step s = .next s' →
    s'.cfg = s.cfg ∧ s.txlog <+: s'.txlog ∧ s.publog <+: s'.publog ∧ s.evlog <+: s'.evlog

/-- A legal state always has a next state, unless the Controller has halted: no error stops the machine but the
exhaustion of the codes. That a waiting Controller has a next state is the model's choice: 43_cover_controller.md R187
gives it no step, and the model's step keeps the state while it waits (log 2). That the step of a halted Controller is
a fault is the model's reading (log 10). -/
def Obligations.LegalStatesRun : Prop :=
  ∀ s : State, s.Legal →
    (∃ s', step s = .next s') ∨ (s.phase = .halted .codeExhausted ∧ step s = .fault .codeExhausted)

/-- The direction toward a target: the extreme of the button sent lies on the target's side of `POS`. -/
def Obligations.DirectionTowardTarget : Prop :=
  ∀ (cfg : Config) (pos : BitVec 7) (t : Byte), pos.toNat ≤ 100 → t.toNat ≤ 100 → pos.toNat ≠ t.toNat →
    (pos.toNat < t.toNat → (posOf cfg (dirTo cfg pos t)).toNat = 100) ∧
    (t.toNat < pos.toNat → (posOf cfg (dirTo cfg pos t)).toNat = 0)
end

