-- ==== Sys2Proof/Laws/State.lean ====
section
/-! SUPPORT. One lemma per field per named update of the state, so that no later proof unfolds an update. -/

namespace Sys2Proof.Machine

@[simp] theorem enterPhase_cfg (p : Phase) (s : State) : (enterPhase p s).cfg = s.cfg := rfl
@[simp] theorem enterPhase_code (p : Phase) (s : State) : (enterPhase p s).code = s.code := rfl
@[simp] theorem enterPhase_pos (p : Phase) (s : State) : (enterPhase p s).pos = s.pos := rfl
@[simp] theorem enterPhase_known (p : Phase) (s : State) : (enterPhase p s).known = s.known := rfl
@[simp] theorem enterPhase_moving (p : Phase) (s : State) : (enterPhase p s).moving = s.moving := rfl
@[simp] theorem enterPhase_phase (p : Phase) (s : State) : (enterPhase p s).phase = p := rfl
@[simp] theorem enterPhase_cmdq (p : Phase) (s : State) : (enterPhase p s).cmdq = s.cmdq := rfl
@[simp] theorem enterPhase_stored (p : Phase) (s : State) : (enterPhase p s).stored = s.stored := rfl
@[simp] theorem enterPhase_txlog (p : Phase) (s : State) : (enterPhase p s).txlog = s.txlog := rfl
@[simp] theorem enterPhase_publog (p : Phase) (s : State) : (enterPhase p s).publog = s.publog := rfl
@[simp] theorem enterPhase_evlog (p : Phase) (s : State) : (enterPhase p s).evlog = s.evlog := rfl
@[simp] theorem enterPhase_env (p : Phase) (s : State) : (enterPhase p s).env = s.env := rfl

@[simp] theorem publish_cfg (s : State) : (publish s).cfg = s.cfg := rfl
@[simp] theorem publish_code (s : State) : (publish s).code = s.code := rfl
@[simp] theorem publish_pos (s : State) : (publish s).pos = s.pos := rfl
@[simp] theorem publish_known (s : State) : (publish s).known = s.known := rfl
@[simp] theorem publish_moving (s : State) : (publish s).moving = s.moving := rfl
@[simp] theorem publish_phase (s : State) : (publish s).phase = s.phase := rfl
@[simp] theorem publish_cmdq (s : State) : (publish s).cmdq = s.cmdq := rfl
@[simp] theorem publish_stored (s : State) : (publish s).stored = s.stored := rfl
@[simp] theorem publish_txlog (s : State) : (publish s).txlog = s.txlog := rfl
@[simp] theorem publish_publog (s : State) : (publish s).publog = s.publog ++ [snapshotOf s.cfg s.pos] := rfl
@[simp] theorem publish_evlog (s : State) : (publish s).evlog = s.evlog := rfl
@[simp] theorem publish_env (s : State) : (publish s).env = s.env := rfl

@[simp] theorem report_cfg (e : LogEvent) (s : State) : (report e s).cfg = s.cfg := rfl
@[simp] theorem report_code (e : LogEvent) (s : State) : (report e s).code = s.code := rfl
@[simp] theorem report_pos (e : LogEvent) (s : State) : (report e s).pos = s.pos := rfl
@[simp] theorem report_known (e : LogEvent) (s : State) : (report e s).known = s.known := rfl
@[simp] theorem report_moving (e : LogEvent) (s : State) : (report e s).moving = s.moving := rfl
@[simp] theorem report_phase (e : LogEvent) (s : State) : (report e s).phase = s.phase := rfl
@[simp] theorem report_cmdq (e : LogEvent) (s : State) : (report e s).cmdq = s.cmdq := rfl
@[simp] theorem report_stored (e : LogEvent) (s : State) : (report e s).stored = s.stored := rfl
@[simp] theorem report_txlog (e : LogEvent) (s : State) : (report e s).txlog = s.txlog := rfl
@[simp] theorem report_publog (e : LogEvent) (s : State) : (report e s).publog = s.publog := rfl
@[simp] theorem report_evlog (e : LogEvent) (s : State) : (report e s).evlog = s.evlog ++ [e] := rfl
@[simp] theorem report_env (e : LogEvent) (s : State) : (report e s).env = s.env := rfl

@[simp] theorem logTransmit_cfg (e : TxEntry) (s : State) : (logTransmit e s).cfg = s.cfg := rfl
@[simp] theorem logTransmit_code (e : TxEntry) (s : State) : (logTransmit e s).code = s.code := rfl
@[simp] theorem logTransmit_pos (e : TxEntry) (s : State) : (logTransmit e s).pos = s.pos := rfl
@[simp] theorem logTransmit_known (e : TxEntry) (s : State) : (logTransmit e s).known = s.known := rfl
@[simp] theorem logTransmit_moving (e : TxEntry) (s : State) : (logTransmit e s).moving = s.moving := rfl
@[simp] theorem logTransmit_phase (e : TxEntry) (s : State) : (logTransmit e s).phase = s.phase := rfl
@[simp] theorem logTransmit_cmdq (e : TxEntry) (s : State) : (logTransmit e s).cmdq = s.cmdq := rfl
@[simp] theorem logTransmit_stored (e : TxEntry) (s : State) : (logTransmit e s).stored = s.stored := rfl
@[simp] theorem logTransmit_txlog (e : TxEntry) (s : State) : (logTransmit e s).txlog = s.txlog ++ [e] := rfl
@[simp] theorem logTransmit_publog (e : TxEntry) (s : State) : (logTransmit e s).publog = s.publog := rfl
@[simp] theorem logTransmit_evlog (e : TxEntry) (s : State) : (logTransmit e s).evlog = s.evlog := rfl
@[simp] theorem logTransmit_env (e : TxEntry) (s : State) : (logTransmit e s).env = s.env := rfl

@[simp] theorem setKnown_cfg (k : Bool) (s : State) : (setKnown k s).cfg = s.cfg := rfl
@[simp] theorem setKnown_code (k : Bool) (s : State) : (setKnown k s).code = s.code := rfl
@[simp] theorem setKnown_pos (k : Bool) (s : State) : (setKnown k s).pos = s.pos := rfl
@[simp] theorem setKnown_known (k : Bool) (s : State) : (setKnown k s).known = k := rfl
@[simp] theorem setKnown_moving (k : Bool) (s : State) : (setKnown k s).moving = s.moving := rfl
@[simp] theorem setKnown_phase (k : Bool) (s : State) : (setKnown k s).phase = s.phase := rfl
@[simp] theorem setKnown_cmdq (k : Bool) (s : State) : (setKnown k s).cmdq = s.cmdq := rfl
@[simp] theorem setKnown_stored (k : Bool) (s : State) : (setKnown k s).stored = s.stored := rfl
@[simp] theorem setKnown_txlog (k : Bool) (s : State) : (setKnown k s).txlog = s.txlog := rfl
@[simp] theorem setKnown_publog (k : Bool) (s : State) : (setKnown k s).publog = s.publog := rfl
@[simp] theorem setKnown_evlog (k : Bool) (s : State) : (setKnown k s).evlog = s.evlog := rfl
@[simp] theorem setKnown_env (k : Bool) (s : State) : (setKnown k s).env = s.env := rfl

@[simp] theorem setMoving_cfg (m : Bool) (s : State) : (setMoving m s).cfg = s.cfg := rfl
@[simp] theorem setMoving_code (m : Bool) (s : State) : (setMoving m s).code = s.code := rfl
@[simp] theorem setMoving_pos (m : Bool) (s : State) : (setMoving m s).pos = s.pos := rfl
@[simp] theorem setMoving_known (m : Bool) (s : State) : (setMoving m s).known = s.known := rfl
@[simp] theorem setMoving_moving (m : Bool) (s : State) : (setMoving m s).moving = m := rfl
@[simp] theorem setMoving_phase (m : Bool) (s : State) : (setMoving m s).phase = s.phase := rfl
@[simp] theorem setMoving_cmdq (m : Bool) (s : State) : (setMoving m s).cmdq = s.cmdq := rfl
@[simp] theorem setMoving_stored (m : Bool) (s : State) : (setMoving m s).stored = s.stored := rfl
@[simp] theorem setMoving_txlog (m : Bool) (s : State) : (setMoving m s).txlog = s.txlog := rfl
@[simp] theorem setMoving_publog (m : Bool) (s : State) : (setMoving m s).publog = s.publog := rfl
@[simp] theorem setMoving_evlog (m : Bool) (s : State) : (setMoving m s).evlog = s.evlog := rfl
@[simp] theorem setMoving_env (m : Bool) (s : State) : (setMoving m s).env = s.env := rfl

@[simp] theorem setPos_cfg (p : BitVec 7) (s : State) : (setPos p s).cfg = s.cfg := rfl
@[simp] theorem setPos_code (p : BitVec 7) (s : State) : (setPos p s).code = s.code := rfl
@[simp] theorem setPos_pos (p : BitVec 7) (s : State) : (setPos p s).pos = p := rfl
@[simp] theorem setPos_known (p : BitVec 7) (s : State) : (setPos p s).known = s.known := rfl
@[simp] theorem setPos_moving (p : BitVec 7) (s : State) : (setPos p s).moving = s.moving := rfl
@[simp] theorem setPos_phase (p : BitVec 7) (s : State) : (setPos p s).phase = s.phase := rfl
@[simp] theorem setPos_cmdq (p : BitVec 7) (s : State) : (setPos p s).cmdq = s.cmdq := rfl
@[simp] theorem setPos_stored (p : BitVec 7) (s : State) : (setPos p s).stored = s.stored := rfl
@[simp] theorem setPos_txlog (p : BitVec 7) (s : State) : (setPos p s).txlog = s.txlog := rfl
@[simp] theorem setPos_publog (p : BitVec 7) (s : State) : (setPos p s).publog = s.publog := rfl
@[simp] theorem setPos_evlog (p : BitVec 7) (s : State) : (setPos p s).evlog = s.evlog := rfl
@[simp] theorem setPos_env (p : BitVec 7) (s : State) : (setPos p s).env = s.env := rfl

@[simp] theorem setCode_cfg (c : U32) (s : State) : (setCode c s).cfg = s.cfg := rfl
@[simp] theorem setCode_code (c : U32) (s : State) : (setCode c s).code = c := rfl
@[simp] theorem setCode_pos (c : U32) (s : State) : (setCode c s).pos = s.pos := rfl
@[simp] theorem setCode_known (c : U32) (s : State) : (setCode c s).known = s.known := rfl
@[simp] theorem setCode_moving (c : U32) (s : State) : (setCode c s).moving = s.moving := rfl
@[simp] theorem setCode_phase (c : U32) (s : State) : (setCode c s).phase = s.phase := rfl
@[simp] theorem setCode_cmdq (c : U32) (s : State) : (setCode c s).cmdq = s.cmdq := rfl
@[simp] theorem setCode_stored (c : U32) (s : State) : (setCode c s).stored = s.stored := rfl
@[simp] theorem setCode_txlog (c : U32) (s : State) : (setCode c s).txlog = s.txlog := rfl
@[simp] theorem setCode_publog (c : U32) (s : State) : (setCode c s).publog = s.publog := rfl
@[simp] theorem setCode_evlog (c : U32) (s : State) : (setCode c s).evlog = s.evlog := rfl
@[simp] theorem setCode_env (c : U32) (s : State) : (setCode c s).env = s.env := rfl

@[simp] theorem enqueue_cfg (c : Command) (s : State) : (enqueue c s).cfg = s.cfg := rfl
@[simp] theorem enqueue_code (c : Command) (s : State) : (enqueue c s).code = s.code := rfl
@[simp] theorem enqueue_pos (c : Command) (s : State) : (enqueue c s).pos = s.pos := rfl
@[simp] theorem enqueue_known (c : Command) (s : State) : (enqueue c s).known = s.known := rfl
@[simp] theorem enqueue_moving (c : Command) (s : State) : (enqueue c s).moving = s.moving := rfl
@[simp] theorem enqueue_phase (c : Command) (s : State) : (enqueue c s).phase = s.phase := rfl
@[simp] theorem enqueue_cmdq (c : Command) (s : State) : (enqueue c s).cmdq = s.cmdq ++ [c] := rfl
@[simp] theorem enqueue_stored (c : Command) (s : State) : (enqueue c s).stored = s.stored := rfl
@[simp] theorem enqueue_txlog (c : Command) (s : State) : (enqueue c s).txlog = s.txlog := rfl
@[simp] theorem enqueue_publog (c : Command) (s : State) : (enqueue c s).publog = s.publog := rfl
@[simp] theorem enqueue_evlog (c : Command) (s : State) : (enqueue c s).evlog = s.evlog := rfl
@[simp] theorem enqueue_env (c : Command) (s : State) : (enqueue c s).env = s.env := rfl

@[simp] theorem setQueue_cfg (q : List Command) (s : State) : (setQueue q s).cfg = s.cfg := rfl
@[simp] theorem setQueue_code (q : List Command) (s : State) : (setQueue q s).code = s.code := rfl
@[simp] theorem setQueue_pos (q : List Command) (s : State) : (setQueue q s).pos = s.pos := rfl
@[simp] theorem setQueue_known (q : List Command) (s : State) : (setQueue q s).known = s.known := rfl
@[simp] theorem setQueue_moving (q : List Command) (s : State) : (setQueue q s).moving = s.moving := rfl
@[simp] theorem setQueue_phase (q : List Command) (s : State) : (setQueue q s).phase = s.phase := rfl
@[simp] theorem setQueue_cmdq (q : List Command) (s : State) : (setQueue q s).cmdq = q := rfl
@[simp] theorem setQueue_stored (q : List Command) (s : State) : (setQueue q s).stored = s.stored := rfl
@[simp] theorem setQueue_txlog (q : List Command) (s : State) : (setQueue q s).txlog = s.txlog := rfl
@[simp] theorem setQueue_publog (q : List Command) (s : State) : (setQueue q s).publog = s.publog := rfl
@[simp] theorem setQueue_evlog (q : List Command) (s : State) : (setQueue q s).evlog = s.evlog := rfl
@[simp] theorem setQueue_env (q : List Command) (s : State) : (setQueue q s).env = s.env := rfl

@[simp] theorem setEnv_cfg (es : List EnvEvent) (s : State) : (setEnv es s).cfg = s.cfg := rfl
@[simp] theorem setEnv_code (es : List EnvEvent) (s : State) : (setEnv es s).code = s.code := rfl
@[simp] theorem setEnv_pos (es : List EnvEvent) (s : State) : (setEnv es s).pos = s.pos := rfl
@[simp] theorem setEnv_known (es : List EnvEvent) (s : State) : (setEnv es s).known = s.known := rfl
@[simp] theorem setEnv_moving (es : List EnvEvent) (s : State) : (setEnv es s).moving = s.moving := rfl
@[simp] theorem setEnv_phase (es : List EnvEvent) (s : State) : (setEnv es s).phase = s.phase := rfl
@[simp] theorem setEnv_cmdq (es : List EnvEvent) (s : State) : (setEnv es s).cmdq = s.cmdq := rfl
@[simp] theorem setEnv_stored (es : List EnvEvent) (s : State) : (setEnv es s).stored = s.stored := rfl
@[simp] theorem setEnv_txlog (es : List EnvEvent) (s : State) : (setEnv es s).txlog = s.txlog := rfl
@[simp] theorem setEnv_publog (es : List EnvEvent) (s : State) : (setEnv es s).publog = s.publog := rfl
@[simp] theorem setEnv_evlog (es : List EnvEvent) (s : State) : (setEnv es s).evlog = s.evlog := rfl
@[simp] theorem setEnv_env (es : List EnvEvent) (s : State) : (setEnv es s).env = es := rfl

@[simp] theorem finish_cfg (c : Command) (st : Status) (s : State) : (finish c st s).cfg = s.cfg := rfl
@[simp] theorem finish_code (c : Command) (st : Status) (s : State) : (finish c st s).code = s.code := rfl
@[simp] theorem finish_pos (c : Command) (st : Status) (s : State) : (finish c st s).pos = s.pos := rfl
@[simp] theorem finish_known (c : Command) (st : Status) (s : State) : (finish c st s).known = s.known := rfl
@[simp] theorem finish_moving (c : Command) (st : Status) (s : State) : (finish c st s).moving = s.moving := rfl
@[simp] theorem finish_phase (c : Command) (st : Status) (s : State) : (finish c st s).phase = .idle := rfl
@[simp] theorem finish_cmdq (c : Command) (st : Status) (s : State) : (finish c st s).cmdq = s.cmdq := rfl
@[simp] theorem finish_stored (c : Command) (st : Status) (s : State) : (finish c st s).stored = s.stored := rfl
@[simp] theorem finish_txlog (c : Command) (st : Status) (s : State) : (finish c st s).txlog = s.txlog := rfl
@[simp] theorem finish_publog (c : Command) (st : Status) (s : State) : (finish c st s).publog = s.publog := rfl
@[simp] theorem finish_evlog (c : Command) (st : Status) (s : State) : (finish c st s).evlog = s.evlog ++ [.done (.command c) st] := rfl
@[simp] theorem finish_env (c : Command) (st : Status) (s : State) : (finish c st s).env = s.env := rfl

@[simp] theorem writeStored_cfg (a : Answer) (v : U32) (s : State) : (writeStored a v s).cfg = s.cfg := by cases a <;> rfl
@[simp] theorem writeStored_code (a : Answer) (v : U32) (s : State) : (writeStored a v s).code = s.code := by cases a <;> rfl
@[simp] theorem writeStored_pos (a : Answer) (v : U32) (s : State) : (writeStored a v s).pos = s.pos := by cases a <;> rfl
@[simp] theorem writeStored_known (a : Answer) (v : U32) (s : State) : (writeStored a v s).known = s.known := by cases a <;> rfl
@[simp] theorem writeStored_moving (a : Answer) (v : U32) (s : State) : (writeStored a v s).moving = s.moving := by cases a <;> rfl
@[simp] theorem writeStored_phase (a : Answer) (v : U32) (s : State) : (writeStored a v s).phase = s.phase := by cases a <;> rfl
@[simp] theorem writeStored_cmdq (a : Answer) (v : U32) (s : State) : (writeStored a v s).cmdq = s.cmdq := by cases a <;> rfl
@[simp] theorem writeStored_txlog (a : Answer) (v : U32) (s : State) : (writeStored a v s).txlog = s.txlog := by cases a <;> rfl
@[simp] theorem writeStored_publog (a : Answer) (v : U32) (s : State) : (writeStored a v s).publog = s.publog := by cases a <;> rfl
@[simp] theorem writeStored_evlog (a : Answer) (v : U32) (s : State) : (writeStored a v s).evlog = s.evlog := by cases a <;> rfl
@[simp] theorem writeStored_env (a : Answer) (v : U32) (s : State) : (writeStored a v s).env = s.env := by cases a <;> rfl
@[simp] theorem writeStored_ok_stored (v : U32) (s : State) : (writeStored .ok v s).stored = some v := rfl
@[simp] theorem writeStored_err_stored (v : U32) (s : State) : (writeStored .err v s).stored = s.stored := rfl

@[simp] theorem restartState_cfg (s : State) : (restartState s).cfg = s.cfg := rfl
@[simp] theorem restartState_code (s : State) : (restartState s).code = s.stored.getD s.cfg.startCode := rfl
@[simp] theorem restartState_pos (s : State) : (restartState s).pos = resetPos s.cfg := rfl
@[simp] theorem restartState_known (s : State) : (restartState s).known = false := rfl
@[simp] theorem restartState_moving (s : State) : (restartState s).moving = false := rfl
@[simp] theorem restartState_phase (s : State) : (restartState s).phase = .reset := rfl
@[simp] theorem restartState_cmdq (s : State) : (restartState s).cmdq = [] := rfl
@[simp] theorem restartState_stored (s : State) : (restartState s).stored = s.stored := rfl
@[simp] theorem restartState_txlog (s : State) : (restartState s).txlog = s.txlog := rfl
@[simp] theorem restartState_publog (s : State) : (restartState s).publog = s.publog := rfl
@[simp] theorem restartState_evlog (s : State) : (restartState s).evlog = s.evlog := rfl
@[simp] theorem restartState_env (s : State) : (restartState s).env = s.env := rfl

end Sys2Proof.Machine
end

