-- ==== Sys2Proof/Laws/Ops.lean ====
section
/-! SUPPORT. What each shared operation can do, once each: the later proofs cite these instead of unfolding. -/

namespace Sys2Proof.Machine

/-! ### Memory: the two tables and the durable cell -/

/-- A table read inside the domain answers the listed entry, or 0. -/
theorem read_of_lt {w : Nat} (t : RomTable w) {i : Nat} (h : i < t.size) :
    t.read i = some (lookupEntry i t.entries) := by simp [RomTable.read, h]

/-- A table read outside the domain answers nothing. -/
theorem read_of_ge {w : Nat} (t : RomTable w) {i : Nat} (h : t.size ≤ i) : t.read i = none := by
  simp [RomTable.read, Nat.not_lt.mpr h]

/-- A write of the durable cell keeps the canonical form of the tables. -/
theorem writeStored_memory_wf (a : Answer) (v : U32) (s : State) (h : Memory.wf s.cfg = true) :
    Memory.wf (writeStored a v s).cfg = true := by simpa using h

/-- A restart keeps the canonical form of the tables. -/
theorem restartState_memory_wf (s : State) (h : Memory.wf s.cfg = true) :
    Memory.wf (restartState s).cfg = true := by simpa using h

/-- The tables of the reset state are canonical. -/
theorem reset_memory_wf : Memory.wf State.reset.cfg = true := by decide

/-- The reset value of `POS` is the reference position. -/
theorem resetPos_eq_refPos (cfg : Config) : resetPos cfg = refPos cfg := by
  cases h : cfg.refButton <;> cases h' : cfg.closedPos <;>
    simp [resetPos, refPos, posOf, openPos, closedPos, extremePos, h, h']

/-! ### ENCODE and the start of a burst -/

/-- `ENCODE` answers a frame or the error with its own code. -/
theorem encodeFrame_cases (cfg : Config) (serial code : U32) (button rep : Nat) :
    (∃ f, encodeFrame cfg serial code button rep = .frame f) ∨
      encodeFrame cfg serial code button rep = .invalidCodeIndex code := by
  unfold encodeFrame
  split
  · exact .inl ⟨_, rfl⟩
  · exact .inr rfl

/-- Whether `ENCODE` answers a frame depends on the code alone. -/
theorem encodeFrame_frame_of_frame {cfg : Config} {serial code : U32} {button rep : Nat} {f : Frame}
    (h : encodeFrame cfg serial code button rep = .frame f) (serial' : U32) (button' rep' : Nat) :
    ∃ f', encodeFrame cfg serial' code button' rep' = .frame f' := by
  unfold encodeFrame at h ⊢
  split at h
  · exact ⟨_, rfl⟩
  · cases h

/-- The start of a repeat: the frame goes to the Driver, or the error goes to the rule. -/
theorem attempt_cases (ctx : Ctx) (b : Button) (rep : Nat) (k : BurstResult → State → State) (s : State) :
    (∃ f, encodeFrame s.cfg s.cfg.serial s.code b.code rep = .frame f ∧
        attempt ctx b rep k s = enterPhase (.tx ctx b rep f) s) ∨
      (encodeFrame s.cfg s.cfg.serial s.code b.code rep = .invalidCodeIndex s.code ∧
        attempt ctx b rep k s = k (.invalidCodeIndex s.code) s) := by
  rcases encodeFrame_cases s.cfg s.cfg.serial s.code b.code rep with ⟨f, h⟩ | h
  · exact .inl ⟨f, h, by simp [attempt, current, h]⟩
  · exact .inr ⟨h, by simp [attempt, current, h]⟩

/-! ### ADVANCE and the Driver's and the Storage's answers -/

/-- The end of a burst: the write of the next code, or the halt. -/
theorem advance_cases (ctx : Ctx) (r : BurstResult) (s : State) :
    (s.code ≠ 0xFFFFFFFF#32 ∧ advance ctx r s = enterPhase (.persist ctx (s.code + 1#32) r) s) ∨
      (s.code = 0xFFFFFFFF#32 ∧
        advance ctx r s = enterPhase (.halted .codeExhausted)
          (report (.codeExhausted s.code) (setMoving (movingAfterHalt ctx s.moving) s))) := by
  by_cases h : s.code = 0xFFFFFFFF#32
  · exact .inr ⟨h, by simp [advance, h]⟩
  · exact .inl ⟨h, by simp [advance, h]⟩

/-- The end of a command by `CodeExhausted` never sets `MOVING`. -/
@[simp] theorem movingAfterHalt_false (ctx : Ctx) : movingAfterHalt ctx false = false := by simp [movingAfterHalt]

/-- A command that had set `MOVING` ends with it 0. -/
theorem movingAfterHalt_of_ctxMoving {ctx : Ctx} (h : ctxMoving ctx = true) (m : Bool) :
    movingAfterHalt ctx m = false := by simp [movingAfterHalt, h]

/-- A command that never sets `MOVING` leaves it. -/
theorem movingAfterHalt_of_not_ctxMoving {ctx : Ctx} (h : ctxMoving ctx = false) (m : Bool) :
    movingAfterHalt ctx m = m := by simp [movingAfterHalt, h]

@[simp] theorem commit_cfg (v : U32) (a : Answer) (s : State) : (commit v a s).cfg = s.cfg := by cases a <;> simp [commit]
@[simp] theorem commit_code (v : U32) (a : Answer) (s : State) : (commit v a s).code = v := by cases a <;> simp [commit]
@[simp] theorem commit_pos (v : U32) (a : Answer) (s : State) : (commit v a s).pos = s.pos := by cases a <;> simp [commit]
@[simp] theorem commit_known (v : U32) (a : Answer) (s : State) : (commit v a s).known = s.known := by cases a <;> simp [commit]
@[simp] theorem commit_moving (v : U32) (a : Answer) (s : State) : (commit v a s).moving = s.moving := by cases a <;> simp [commit]
@[simp] theorem commit_phase (v : U32) (a : Answer) (s : State) : (commit v a s).phase = s.phase := by cases a <;> simp [commit]
@[simp] theorem commit_cmdq (v : U32) (a : Answer) (s : State) : (commit v a s).cmdq = s.cmdq := by cases a <;> simp [commit]
@[simp] theorem commit_txlog (v : U32) (a : Answer) (s : State) : (commit v a s).txlog = s.txlog := by cases a <;> simp [commit]
@[simp] theorem commit_publog (v : U32) (a : Answer) (s : State) : (commit v a s).publog = s.publog := by cases a <;> simp [commit]
@[simp] theorem commit_env (v : U32) (a : Answer) (s : State) : (commit v a s).env = s.env := by cases a <;> simp [commit]
theorem commit_stored (v : U32) (a : Answer) (s : State) :
    (commit v a s).stored = if a = .ok then some v else s.stored := by cases a <;> simp [commit]
theorem commit_evlog (v : U32) (a : Answer) (s : State) :
    (commit v a s).evlog = s.evlog ++ if a = .err then [.persistenceFailure v] else [] := by
  cases a <;> simp [commit]

/-- The Driver's answer: the entry is logged, then the next repeat, or the end of the burst. -/
theorem transmitted_cases (ctx : Ctx) (b : Button) (rep : Nat) (f : Frame) (a : Answer) (s : State) :
    let s' := logTransmit ⟨s.code, b, rep, serialize f, a⟩ s
    (a = .ok ∧ rep < 6 ∧ transmitted ctx b rep f a s = attempt ctx b (rep + 1) (returnTo ctx) s') ∨
      (a = .ok ∧ 6 ≤ rep ∧ transmitted ctx b rep f a s = advance ctx .ok s') ∨
      (a = .err ∧ transmitted ctx b rep f a s = advance ctx (.driverFailure s.code rep) s') := by
  cases a with
  | ok =>
    by_cases h : rep < 6
    · exact .inl ⟨rfl, h, by simp [transmitted, current, h]⟩
    · exact .inr (.inl ⟨rfl, Nat.not_lt.mp h, by simp [transmitted, current, h]⟩)
  | err => exact .inr (.inr ⟨rfl, by simp [transmitted, current]⟩)

/-! ### Full moves and admission -/

@[simp] theorem endMove_cfg (tr : Travel) (r : BurstResult) (s : State) : (endMove tr r s).cfg = s.cfg := by cases r <;> simp [endMove]
@[simp] theorem endMove_code (tr : Travel) (r : BurstResult) (s : State) : (endMove tr r s).code = s.code := by cases r <;> simp [endMove]
@[simp] theorem endMove_moving (tr : Travel) (r : BurstResult) (s : State) : (endMove tr r s).moving = s.moving := by cases r <;> simp [endMove]
@[simp] theorem endMove_phase (tr : Travel) (r : BurstResult) (s : State) : (endMove tr r s).phase = s.phase := by cases r <;> simp [endMove]
@[simp] theorem endMove_cmdq (tr : Travel) (r : BurstResult) (s : State) : (endMove tr r s).cmdq = s.cmdq := by cases r <;> simp [endMove]
@[simp] theorem endMove_stored (tr : Travel) (r : BurstResult) (s : State) : (endMove tr r s).stored = s.stored := by cases r <;> simp [endMove]
@[simp] theorem endMove_txlog (tr : Travel) (r : BurstResult) (s : State) : (endMove tr r s).txlog = s.txlog := by cases r <;> simp [endMove]
@[simp] theorem endMove_evlog (tr : Travel) (r : BurstResult) (s : State) : (endMove tr r s).evlog = s.evlog := by cases r <;> simp [endMove]
@[simp] theorem endMove_env (tr : Travel) (r : BurstResult) (s : State) : (endMove tr r s).env = s.env := by cases r <;> simp [endMove]
@[simp] theorem endMove_known (tr : Travel) (r : BurstResult) (s : State) :
    (endMove tr r s).known = knownAfterMove r s.known := by cases r <;> simp [endMove]

/-- A full move writes `POS` only on `Ok`. -/
theorem endMove_pos (tr : Travel) (r : BurstResult) (s : State) :
    (endMove tr r s).pos = if r = .ok then posOf s.cfg tr else s.pos := by cases r <;> simp [endMove]

/-- A full move publishes the position it leaves. -/
theorem endMove_publog (tr : Travel) (r : BurstResult) (s : State) :
    (endMove tr r s).publog = s.publog ++ [snapshotOf s.cfg (endMove tr r s).pos] := by cases r <;> simp [endMove]

/-- There is room exactly while the queue is shorter than its capacity, if it has one. -/
theorem hasRoom_iff (s : State) :
    hasRoom s = true ↔ ∀ cap, s.cfg.cmdqCap = some cap → s.cmdq.length < cap := by
  unfold hasRoom
  split <;> rename_i h <;> simp [h]

/-- A delivery is possible exactly while there is room, whatever it decodes to. -/
@[simp] theorem accepts_deliver (raw : RawCommand) (s : State) : accepts (.deliver raw) s = hasRoom s := rfl

/-- A delivery is rejected, ignored, or queued. -/
theorem deliverCommand_cases (raw : RawCommand) (s : State) :
    (decodeRaw raw = none ∧ deliverCommand raw s = report (.invalidCommandPayload (.raw raw)) s) ∨
      ∃ c, decodeRaw raw = some c ∧
        ((startupWindow s.phase = true ∧ deliverCommand raw s = report (.ignored c) s) ∨
          (startupWindow s.phase = false ∧ deliverCommand raw s = enqueue c s)) := by
  cases h : decodeRaw raw with
  | none => exact .inl ⟨rfl, by simp [deliverCommand, h]⟩
  | some c =>
    refine .inr ⟨c, rfl, ?_⟩
    cases h' : startupWindow s.phase
    · exact .inr ⟨rfl, by simp [deliverCommand, h, h']⟩
    · exact .inl ⟨rfl, by simp [deliverCommand, h, h']⟩

/-! ### Running on over the external moves -/

/-- A queued command cancels the wait it finds; anything else stays as it is. -/
theorem cancelIfQueued_cases (s : State) :
    cancelIfQueued s = s ∨
      ∃ t d, s.phase = .wait t d ∧ s.cmdq ≠ [] ∧ cancelIfQueued s = waitCancelled t s := by
  unfold cancelIfQueued
  split
  · rename_i t d h
    cases hq : s.cmdq with
    | nil => exact .inl (by simp)
    | cons c q => exact .inr ⟨t, d, h, by simp, by simp⟩
  · exact .inl rfl

/-- Where the phase is not a wait nothing is cancelled. -/
theorem cancelIfQueued_of_phase {s : State} (h : ∀ t d, s.phase ≠ .wait t d) : cancelIfQueued s = s := by
  rcases cancelIfQueued_cases s with h' | ⟨t, d, ht, _⟩
  · exact h'
  · exact absurd ht (h t d)

/-- No command in progress: the external moves stay to come. -/
theorem settle_of_resting {s : State} (h : restingPhase s.phase = true) (es : List EnvEvent) :
    settle es s = setEnv es s := by
  cases es with
  | nil =>
    refine cancelIfQueued_of_phase fun t d ht => ?_
    simp at ht
    simp [restingPhase, ht] at h
  | cons e es => simp [settle, h]

/-- A command in progress takes the next external move when that is possible. -/
theorem settle_cons_of_accepts {s : State} {e : EnvEvent} (h : restingPhase s.phase = false)
    (he : e ≠ .restart) (ha : accepts e s = true) (es : List EnvEvent) :
    settle (e :: es) s = settle es (react e s) := by simp [settle, h, he, ha]

/-- Induction over a run: what every accepted move, every cancellation and every change of the list of moves to come
keep holds where the run ends. -/
theorem settle_induction {P : State → Prop}
    (henv : ∀ es s, P s → P (setEnv es s))
    (hcancel : ∀ s, P s → P (cancelIfQueued s))
    (hreact : ∀ e s, e ≠ .restart → restingPhase s.phase = false → accepts e s = true → P s → P (react e s)) :
    ∀ es s, P s → P (settle es s) := by
  intro es
  induction es with
  | nil => intro s h; exact hcancel _ (henv _ _ h)
  | cons e es ih =>
    intro s h
    unfold settle
    split
    · exact henv _ _ h
    · rename_i hr
      simp only [Bool.or_eq_true, decide_eq_true_eq, not_or, Bool.not_eq_true] at hr
      split
      · rename_i ha
        exact ih _ (hreact e s hr.2 hr.1 ha h)
      · exact hcancel _ (henv _ _ h)

/-! ### The step -/

/-- A next state of `exec` is what the instruction's first part leaves, run on, or a frame's transmission. -/
theorem exec_cases {i : Instr} {s t : State} (h : exec i s = .next t) :
    (∃ ctx b, (ctx, b) ∈ [(Ctx.cmdOpen, Button.btnOpen), (.cmdStop, .btnStop), (.cmdClose, .btnClose)] ∧
        t = settle s.env (attempt ctx b 1 (returnTo ctx) s)) ∨
      (∃ target, i = .setPosition target ∧ t = settle s.env (beginSetPosition target s)) ∨
      (∃ b f, t = transmitFrame b f s) := by
  cases i <;> simp only [exec, execOpenCover, execStopCover, execCloseCover, execSetPosition, execFrameOpen,
    execFrameStop, execFrameClose, Host.Outcome.next.injEq] at h <;> subst h
  · exact .inl ⟨_, _, by simp, rfl⟩
  · exact .inl ⟨_, _, by simp, rfl⟩
  · exact .inl ⟨_, _, by simp, rfl⟩
  · exact .inr (.inl ⟨_, rfl, rfl⟩)
  · exact .inr (.inr ⟨_, _, rfl⟩)
  · exact .inr (.inr ⟨_, _, rfl⟩)
  · exact .inr (.inr ⟨_, _, rfl⟩)

/-- Every instruction answers a next state. -/
theorem exec_next (i : Instr) (s : State) : ∃ t, exec i s = .next t := by
  cases i <;> exact ⟨_, rfl⟩

/-- The Controller's own move: nothing, startup, dispatch, or a cancelled wait. -/
theorem ownTurn_cases (s : State) :
    ownTurn s = .move s ∨
      (s.phase = .reset ∧ ownTurn s = .move (settle s.env (beginStartup s.stored s))) ∨
      (∃ c q, s.phase = .idle ∧ s.cmdq = c :: q ∧ ownTurn s = .run c.toInstr (setQueue q s)) ∨
      ownTurn s = .move (cancelIfQueued s) ∨
      (∃ r, s.phase = .halted r ∧ ownTurn s = .stuck r) := by
  unfold ownTurn
  split <;> rename_i h
  · exact .inr (.inl ⟨h, rfl⟩)
  · split <;> rename_i hq
    · exact .inl rfl
    · exact .inr (.inr (.inl ⟨_, _, h, hq, rfl⟩))
  · exact .inr (.inr (.inr (.inl rfl)))
  · exact .inr (.inr (.inr (.inr ⟨_, h, rfl⟩)))
  · exact .inl rfl
  · exact .inl rfl
  · exact .inl rfl

/-- All a step can do, where it answers a next state. `es` are the external moves still to come when the Controller
acts. -/
inductive Stepped (s t : State) : Prop where
  | waited (es : List EnvEvent) (ht : t = setEnv es s)
  | started (es : List EnvEvent) (read : Option U32) (hp : s.phase = .reset)
      (hread : read = s.stored ∨ (read = none ∧ s.env.head? = some .unreadable)) (ht : t = settle es (beginStartup read (setEnv es s)))
  | dispatched (es : List EnvEvent) (c : Command) (q : List Command) (hp : s.phase = .idle) (hq : s.cmdq = c :: q)
      (ht : exec c.toInstr (setQueue q (setEnv es s)) = .next t)
  | cancelled (es : List EnvEvent) (ht : t = cancelIfQueued (setEnv es s))
  | framed (ctx : Ctx) (b : Button) (rep : Nat) (f : Frame) (a : Answer) (es : List EnvEvent) (i : Instr)
      (hp : s.phase = .tx ctx b rep f) (he : s.env = .driver a :: es) (hf : decodeFrame f = some i)
      (ht : exec i s = .next t)
  | reacted (e : EnvEvent) (es : List EnvEvent) (he : s.env = e :: es) (ha : accepts e s = true)
      (ht : t = react e (setEnv es s))

/-- Where the Controller makes its own move. -/
theorem stepped_of_ownTurn {s t : State} {es : List EnvEvent} (hn : nextTurn s = ownTurn (setEnv es s))
    (h : step s = .next t) : Stepped s t := by
  rcases ownTurn_cases (setEnv es s) with ho | ⟨hp, ho⟩ | ⟨c, q, hp, hq, ho⟩ | ho | ⟨r, hp, ho⟩ <;>
    rw [step, hn, ho] at h
  · exact .waited es (by simpa using h.symm)
  · exact .started es _ hp (.inl rfl) (by simpa using h.symm)
  · exact .dispatched es c q hp hq h
  · exact .cancelled es (by simpa using h.symm)
  · cases r; cases h

/-- All a step can do. -/
theorem step_cases {s t : State} (h : step s = .next t) : Stepped s t := by
  cases henv : s.env with
  | nil => exact stepped_of_ownTurn (es := s.env) (by simp only [nextTurn, henv]; rw [← henv]; rfl) h
  | cons e es =>
    by_cases ha : accepts e s = true
    · cases e with
      | driver a =>
        simp only [step, nextTurn, henv, ha, if_true] at h
        cases hp : s.phase with
        | tx ctx b rep f =>
          cases hf : decodeFrame f with
          | none => simp [frameTurn, hp, hf] at h
          | some i => exact .framed ctx b rep f a es i hp henv hf (by simpa [frameTurn, hp, hf] using h)
        | _ => simp [accepts, hp] at ha
      | proceed => exact stepped_of_ownTurn (es := es) (by simp [nextTurn, henv, ha]) h
      | unreadable =>
        simp only [step, nextTurn, henv, ha, if_true] at h
        have hp : s.phase = .reset := by
          cases hp : s.phase <;> simp [accepts, hp] at ha ⊢
        exact .started es none hp (.inr ⟨rfl, by rw [henv]; rfl⟩) (by simpa using h.symm)
      | _ =>
        simp only [step, nextTurn, henv, ha, if_true] at h
        exact .reacted _ es henv ha (by simpa using h.symm)
    · exact stepped_of_ownTurn (es := s.env) (by simp only [nextTurn, henv, ha]; rw [← henv]; rfl) h

end Sys2Proof.Machine
end

