-- ==== Sys2Proof/Laws/Bursts.lean ====
section
/-! SUPPORT. A whole burst run on over the answers of the Driver and the Storage, once for every context. -/

namespace Sys2Proof.Machine

/-- `ENCODE` answers the frames of the table for the code of this state and this button. -/
def encodes (b : Button) (s : State) : Prop :=
  ∀ rep, encodeFrame s.cfg s.cfg.serial s.code b.code rep = .frame (specFrame s.cfg s.code b.code rep)

/-- Where `ENCODE` answers a frame, a repeat starts with the hand-over to the Driver. -/
theorem attempt_of_encodes {b : Button} {s : State} (h : encodes b s) (ctx : Ctx) (rep : Nat)
    (k : BurstResult → State → State) :
    attempt ctx b rep k s = { s with phase := .tx ctx b rep (specFrame s.cfg s.code b.code rep) } := by
  simp only [attempt, current, h rep, enterPhase]

/-- The log of one more transmitted repeat. -/
theorem okEntries_succ (cfg : Config) (code : U32) (b : Button) (n : Nat) :
    okEntries cfg code b (n + 1) = okEntries cfg code b n ++ [specEntry cfg code b (n + 1) .ok] := by
  simp [okEntries, List.range_succ]

/-- The first `n` repeats of a burst, each answered `Ok`. -/
theorem settle_oks {b : Button} {s : State} (h : encodes b s) (ctx : Ctx) (rest : List EnvEvent) (n : Nat)
    (hn : n < 6) :
    settle (List.replicate n (.driver .ok) ++ rest) (attempt ctx b 1 (returnTo ctx) s) =
      settle rest { s with
        phase := .tx ctx b (n + 1) (specFrame s.cfg s.code b.code (n + 1))
        txlog := s.txlog ++ okEntries s.cfg s.code b n } := by
  induction n generalizing rest with
  | zero => simp [attempt_of_encodes h, okEntries]
  | succ n ih =>
    rw [List.replicate_succ', List.append_assoc, ih _ (by omega), List.singleton_append,
      settle_cons_of_accepts (by rfl) (by simp) (by simp [accepts])]
    simp only [react, transmitted, hn, if_true, logTransmit]
    rw [attempt_of_encodes (by exact h)]
    simp only [okEntries_succ, List.append_assoc]
    rfl

/-- A burst that goes through returns `Ok` to its rule. -/
theorem settle_burst {b : Button} {s : State} (h : encodes b s) (hm : s.code ≠ 0xFFFFFFFF#32) (ctx : Ctx)
    (a : Answer) (rest : List EnvEvent) :
    settle (burstAnswers a ++ rest) (attempt ctx b 1 (returnTo ctx) s) =
      settle rest (returnTo ctx .ok { afterBurst b a s with phase := .persist ctx (s.code + 1#32) .ok }) := by
  have hl : burstAnswers a ++ rest = List.replicate 5 (.driver .ok) ++ (.driver .ok :: .storage a :: rest) := by
    simp [burstAnswers, List.replicate]
  have hr : react (.driver .ok) { s with
        phase := .tx ctx b (5 + 1) (specFrame s.cfg s.code b.code (5 + 1))
        txlog := s.txlog ++ okEntries s.cfg s.code b 5 } =
      { s with
        phase := .persist ctx (s.code + 1#32) .ok
        txlog := s.txlog ++ okEntries s.cfg s.code b 6 } := by
    simp only [react, transmitted, logTransmit, advance, current, hm, if_false, okEntries_succ _ _ _ 5]
    simp [enterPhase, specEntry]
  rw [hl, settle_oks h ctx _ 5 (by omega), settle_cons_of_accepts (by rfl) (by simp) (by simp [accepts]), hr,
    settle_cons_of_accepts (by rfl) (by simp) (by simp [accepts])]
  congr 1
  simp only [react, persisted]
  congr 1
  cases a <;> simp [commit, writeStored, setCode, afterBurst, storedAfter, writeEvents, report]

/-- A burst that the Driver fails returns `DriverFailure` to its rule. -/
theorem settle_failedBurst {b : Button} {s : State} (h : encodes b s) (hm : s.code ≠ 0xFFFFFFFF#32) (ctx : Ctx)
    (n : Nat) (hn : n < 6) (a : Answer) (rest : List EnvEvent) :
    settle (failedAnswers n a ++ rest) (attempt ctx b 1 (returnTo ctx) s) =
      settle rest (returnTo ctx (.driverFailure s.code (n + 1))
        { afterFailedBurst b n a s with
          phase := .persist ctx (s.code + 1#32) (.driverFailure s.code (n + 1)) }) := by
  have hl : failedAnswers n a ++ rest = List.replicate n (.driver .ok) ++ (.driver .err :: .storage a :: rest) := by
    simp [failedAnswers]
  have hr : react (.driver .err) { s with
        phase := .tx ctx b (n + 1) (specFrame s.cfg s.code b.code (n + 1))
        txlog := s.txlog ++ okEntries s.cfg s.code b n } =
      { s with
        phase := .persist ctx (s.code + 1#32) (.driverFailure s.code (n + 1))
        txlog := s.txlog ++ okEntries s.cfg s.code b n ++ [specEntry s.cfg s.code b (n + 1) .err] } := by
    simp only [react, transmitted, logTransmit, advance, current, hm, if_false]
    simp [enterPhase, specEntry]
  rw [hl, settle_oks h ctx _ n hn, settle_cons_of_accepts (by rfl) (by simp) (by simp [accepts]), hr,
    settle_cons_of_accepts (by rfl) (by simp) (by simp [accepts])]
  congr 1
  simp only [react, persisted]
  congr 1
  cases a <;> simp [commit, writeStored, setCode, afterFailedBurst, storedAfter, writeEvents, report]

/-- A burst that finds no next code halts the Controller, whether it went through or the Driver failed it. -/
theorem settle_exhaustedBurst {b : Button} {s : State} (h : encodes b s) (hm : s.code = 0xFFFFFFFF#32) (ctx : Ctx)
    (n : Nat) (hn : n < 6) (rest : List EnvEvent) :
    settle (List.replicate 6 (.driver .ok) ++ rest) (attempt ctx b 1 (returnTo ctx) s) =
        { exhausted (okEntries s.cfg s.code b 6) s with moving := movingAfterHalt ctx s.moving, env := rest } ∧
      settle (List.replicate n (.driver .ok) ++ .driver .err :: rest) (attempt ctx b 1 (returnTo ctx) s) =
        { exhausted (okEntries s.cfg s.code b n ++ [specEntry s.cfg s.code b (n + 1) .err]) s with
          moving := movingAfterHalt ctx s.moving, env := rest } := by
  have hl : List.replicate 6 (EnvEvent.driver .ok) ++ rest =
      List.replicate 5 (.driver .ok) ++ (.driver .ok :: rest) := by simp [List.replicate]
  constructor
  · rw [hl, settle_oks h ctx _ 5 (by omega), settle_cons_of_accepts (by rfl) (by simp) (by simp [accepts])]
    simp only [react, transmitted, logTransmit, advance, current, hm]
    rw [settle_of_resting (by rfl)]
    simp [okEntries_succ _ _ _ 5, specEntry, setEnv, enterPhase, report, setMoving, hm, exhausted]
  · rw [settle_oks h ctx _ n hn, settle_cons_of_accepts (by rfl) (by simp) (by simp [accepts])]
    simp only [react, transmitted, logTransmit, advance, current, hm]
    rw [settle_of_resting (by rfl)]
    simp [specEntry, setEnv, enterPhase, report, setMoving, hm, exhausted]

end Sys2Proof.Machine
end

