-- ==== Sys2Proof/Laws/PerInstr.lean ====
section
/-! SUPPORT. A family of statements about each instruction as syntax: its word lies in its own row of
spec/opcode_table.json. -/

namespace Sys2Proof.Laws

/-- An instruction's row: the width, the mask and the match. -/
def tableRow : Instr → Nat × Nat × Nat
  | .openCover => (16, 0xFFFF, 0x0100)
  | .stopCover => (16, 0xFFFF, 0x0200)
  | .closeCover => (16, 0xFFFF, 0x0400)
  | .setPosition _ => (16, 0xFF00, 0x0800)
  | .frameOpen _ _ _ _ => (52, 0xF000000000000, 0xE000000000000)
  | .frameStop _ _ _ _ => (52, 0xF000000000000, 0xD000000000000)
  | .frameClose _ _ _ _ => (52, 0xF000000000000, 0xB000000000000)

/-- The width and the bits of a word. -/
def wordBits : CodeWord → Nat × Nat
  | .command w => (16, w.toNat)
  | .frame f => (52, f.toNat)

/-- The encoding has the row's width, and the row's fixed bits read as the row's match. -/
def FixedBits.Statement (i : Instr) : Prop :=
  (wordBits (encode i)).1 = (tableRow i).1 ∧
    (wordBits (encode i)).2 &&& (tableRow i).2.1 = (tableRow i).2.2

/-- The button nibble of a frame word is what the frame rows' mask leaves. -/
theorem frameWord_fixedBits (kind r sn : BitVec 4) (e : BitVec 16) (k : BitVec 24) :
    frameWord kind r sn e k &&& 0xF000000000000#52 = frameWord kind 0#4 0#4 0#16 0#24 := by
  apply BitVec.eq_of_getLsbD_eq
  intro i hi
  simp only [frameWord, BitVec.getLsbD_and, BitVec.getLsbD_append]
  interval_cases i <;> simp

/-- The `KIND` byte of a command word is what the `SET_POSITION` row's mask leaves. -/
theorem commandWord_fixedBits (t : Byte) : (0x08#8 ++ t : BitVec 16) &&& 0xFF00#16 = 0x0800#16 := by
  apply BitVec.eq_of_getLsbD_eq
  intro i hi
  simp only [BitVec.getLsbD_and, BitVec.getLsbD_append]
  interval_cases i <;> simp

theorem FixedBits.openCover : FixedBits.Statement .openCover := by unfold Statement; decide

theorem FixedBits.stopCover : FixedBits.Statement .stopCover := by unfold Statement; decide

theorem FixedBits.closeCover : FixedBits.Statement .closeCover := by unfold Statement; decide

theorem FixedBits.setPosition (target : Byte) : FixedBits.Statement (.setPosition target) :=
  ⟨rfl, congrArg BitVec.toNat (commandWord_fixedBits target)⟩

theorem FixedBits.frameOpen (r sn : BitVec 4) (e : BitVec 16) (k : BitVec 24) :
    FixedBits.Statement (.frameOpen r sn e k) :=
  ⟨rfl, congrArg BitVec.toNat (frameWord_fixedBits 0xE#4 r sn e k)⟩

theorem FixedBits.frameStop (r sn : BitVec 4) (e : BitVec 16) (k : BitVec 24) :
    FixedBits.Statement (.frameStop r sn e k) :=
  ⟨rfl, congrArg BitVec.toNat (frameWord_fixedBits 0xD#4 r sn e k)⟩

theorem FixedBits.frameClose (r sn : BitVec 4) (e : BitVec 16) (k : BitVec 24) :
    FixedBits.Statement (.frameClose r sn e k) :=
  ⟨rfl, congrArg BitVec.toNat (frameWord_fixedBits 0xB#4 r sn e k)⟩

end Sys2Proof.Laws
end

