-- ==== Sys2Proof/Tests/Slice0.lean ====
section
/-! SUPPORT. Tests. Expected results are the vectors of 95_test_vectors.md, named in each comment; the witnesses show
that the hypotheses of each obligation are met by a state and operands, at the ends of their ranges. -/

namespace Sys2Proof.Tests

open Sys2Proof.Machine

/-! ### Well-formedness: an ill-formed term for each check -/

theorem test_wf_command_target_101 : (Command.setPosition 101#8).wf = false := by decide
theorem test_wf_instr_target_101 : (Instr.setPosition 101#8).wf = false := by decide
theorem test_wf_instr_target_100 : (Instr.setPosition 100#8).wf = true := by decide
theorem test_wf_table_unsorted : RomTable.wf (w := 8) ⟨4, [(2, 1#8), (1, 1#8)]⟩ = false := by decide
theorem test_wf_table_zero_entry : RomTable.wf (w := 8) ⟨4, [(1, 0#8)]⟩ = false := by decide
theorem test_wf_table_beyond_size : RomTable.wf (w := 8) ⟨4, [(4, 1#8)]⟩ = false := by decide
theorem test_wf_config_negative_duration :
    configWf { Config.example with tTotal := -1 } = false := by decide +kernel

/-! ### Decoding: words written out from the rows of spec/opcode_table.json (W1 to W12) -/

theorem test_decode_open : decode (.command 0b0000000100000000#16) = some .openCover := by decide
theorem test_decode_stop : decode (.command 0b0000001000000000#16) = some .stopCover := by decide
theorem test_decode_close : decode (.command 0b0000010000000000#16) = some .closeCover := by decide
theorem test_decode_set_position : decode (.command 0b0000100001100100#16) = some (.setPosition 100#8) := by decide

/-- The 52 bits of V3, repeat 1. -/
theorem test_decode_frame_open :
    decode (.frame 0b1110000010100101010000110010010111000011111000010000#52) =
      some (.frameOpen 0b0000#4 0b1010#4 0b0101010000110010#16 0b010111000011111000010000#24) := by decide

/-- V4, repeat 1. -/
theorem test_decode_frame_stop :
    decode (.frame 0b1101001110100101010000110010010111000011111000010000#52) =
      some (.frameStop 0b0011#4 0b1010#4 0b0101010000110010#16 0b010111000011111000010000#24) := by decide

/-- The 52 bits of V1. -/
theorem test_decode_frame_close :
    decode (.frame 0b1011010110100101010000110010010111000011111000010000#52) =
      some (.frameClose 0b0101#4 0b1010#4 0b0101010000110010#16 0b010111000011111000010000#24) := by decide

/-- V15: button 0 is reserved. -/
theorem test_decode_reserved_frame : decode (.frame 0xF1A54325C3E10#52) = none := by decide

/-- W7, W10, W11, W12. -/
theorem test_decode_invalid_words :
    [0x0865#16, 0x0101#16, 0x0300#16, 0x0000#16, 0xFF00#16, 0x1000#16, 0x08FF#16].map decode16 =
      List.replicate 7 none := by decide

/-- A string's ASCII bytes, by which the byte lists of the text form are compared with the spec's spellings. -/
def ascii (s : String) : List Byte := s.toList.map fun c => BitVec.ofNat 8 c.toNat

theorem test_spellings : topicSet = ascii "set" ∧ topicSetPosition = ascii "set_position" ∧
    payloadOpen = ascii "OPEN" ∧ payloadStop = ascii "STOP" ∧ payloadClose = ascii "CLOSE" := by decide

/-- W4 to W6. -/
theorem test_decode_text_targets :
    ["0", "100", "007"].map (fun p => decodeText (ascii "set_position") (ascii p)) =
      [some (.setPosition 0#8), some (.setPosition 100#8), some (.setPosition 7#8)] := by decide

/-- W7 to W9. -/
theorem test_decode_text_invalid :
    ["101", "-1", "+5", "5.0", " 5", "", "1000"].map (fun p => decodeText (ascii "set_position") (ascii p)) =
        List.replicate 7 none ∧
      [("set", "open"), ("set", "OPEN "), ("set", "HALT"), ("toggle", "OPEN")].map
          (fun p => decodeText (ascii p.1) (ascii p.2)) = List.replicate 4 none := by decide

/-- The encoder on V1 read back, and on a command word. -/
theorem test_encode : encode (.frameClose 5#4 0xA#4 0x5432#16 0x5C3E10#24) = .frame 0xB5A54325C3E10#52 ∧
    encode (.setPosition 25#8) = .command 0x0819#16 := by decide

/-! ### The Frame Encoder -/

/-- The tables of V1. -/
def tables : Config :=
  { Config.example with
    encodeTable := ⟨0x10000, [(0x10, 0xABCD#16)]⟩
    kiTable := ⟨256, [(0x10, 0x5A#8)]⟩ }

/-- `ENCODE` with one entry in each table. -/
def encodeWith (nEnc nKi : Nat) (enc : BitVec 16) (ki : Byte) (serial code : U32) (button rep : Nat) : EncodeResult :=
  encodeFrame
    { Config.example with
      encodeTable := ⟨nEnc, [(code.toNat, enc)]⟩
      kiTable := ⟨nKi, [(code.toNat % 256, ki)]⟩ }
    serial code button rep

theorem test_encode_V2 : [2, 3, 4, 5, 6].map (encodeFrame tables 0x12345678#32 0x10#32 4) =
    [.frame 0xB6A54325C3E10#52, .frame 0xB7A54325C3E10#52, .frame 0xB0A54325C3E10#52, .frame 0xB1A54325C3E10#52,
      .frame 0xB2A54325C3E10#52] := by decide +kernel

theorem test_encode_V1_V9_V14_V15 :
    encodeFrame tables 0x12345678#32 0x10#32 4 1 = .frame 0xB5A54325C3E10#52 ∧
    encodeFrame tables 0x12345678#32 0x10#32 0x14 1 = .frame 0xB5A54325C3E10#52 ∧
    encodeFrame tables 0x12345678#32 0x10#32 4 22 = .frame 0xB2A54325C3E10#52 ∧
    encodeFrame tables 0x12345678#32 0x10#32 0 1 = .frame 0xF1A54325C3E10#52 := by decide +kernel

theorem test_encode_V6_V10_V11 :
    encodeWith 0x10000 256 0xFFFF#16 0xFF#8 0xFFFFFFFF#32 0x1FF#32 15 15 = .frame 0#52 ∧
    encodeWith 0x10000 256 0x00FF#16 0x0F#8 0x0A0B0C0D#32 0x100#32 1 2 = .frame 0xE35FF00040302#52 ∧
    encodeWith 0x10000 256 0x1234#16 0x34#8 0x12345678#32 0x20#32 4 1 = .frame 0xB5DEDCBCBA987#52 := by
  decide +kernel

theorem test_encode_V16_V17_V18 :
    encodeWith 0x10 256 1#16 1#8 0x12345678#32 0x10#32 4 1 = .invalidCodeIndex 0x10#32 ∧
    encodeWith 0x200 0x10 1#16 1#8 0x12345678#32 0x110#32 4 1 = .invalidCodeIndex 0x110#32 ∧
    encodeWith 0x200 0x10 0#16 0#8 0x12345678#32 0x10F#32 4 1 = .frame 0xB5DFFFFCBA987#52 := by decide +kernel

/-! ### The Pulse-Train Serializer -/

/-- Z1: total and ends. -/
theorem test_serialize_Z1 : (serialize 0#52).length = 109 ∧ ((serialize 0#52).map Pulse.micros).sum = 99000 ∧
    (serialize 0#52).drop 104 = [⟨.high, 1000⟩, ⟨.low, 500⟩, ⟨.high, 1500⟩, ⟨.low, 1500⟩, ⟨.low, 15000⟩] := by
  decide +kernel

/-- Z3: the first eight pulses and the 23 one-bits. -/
theorem test_serialize_Z3 :
    (serialize 0xB5A54325C3E10#52).take 8 = [⟨.high, 1500⟩, ⟨.low, 1500⟩, ⟨.high, 500⟩, ⟨.low, 1000⟩, ⟨.high, 1000⟩,
      ⟨.low, 500⟩, ⟨.high, 500⟩, ⟨.low, 1000⟩] ∧
    ((serialize 0xB5A54325C3E10#52).filter fun p => decide (p = ⟨.high, 500⟩)).length = 23 := by decide +kernel

/-! ### Snapshots (N-1 to N-6) -/

theorem test_snapshots :
    [0#7, 100#7, 50#7].map (snapshotOf tables) =
        [⟨.closed, 0#7⟩, ⟨.opened, 100#7⟩, ⟨.partiallyOpen, 50#7⟩] ∧
      [100#7, 0#7, 40#7].map (snapshotOf { tables with closedPos := .at100 }) =
        [⟨.closed, 100#7⟩, ⟨.opened, 0#7⟩, ⟨.partiallyOpen, 40#7⟩] := by decide

/-! ### The Rolling-Code Store and the Controller -/

/-- A state of a Controller with the tables of 95_test_vectors.md section 3 cut down to a size and no entry. -/
def inPhase (nEnc : Nat) (code : U32) (pos : BitVec 7) (known : Bool) (phase : Phase) (env : List EnvEvent) : State :=
  { State.resetWith { Config.example with encodeTable := ⟨nEnc, []⟩ } (some code) with
    code := code, pos := pos, known := known, phase := phase, env := env }

/-- An idle Controller at a code and a position. -/
def idle (code : U32) (pos : BitVec 7) (known : Bool) (env : List EnvEvent) : State := inPhase 0x40 code pos known .idle env

/-- A Controller in `phase` whose code may be any, with these external moves to come. -/
def anyCode (code : U32) (pos : BitVec 7) (known : Bool) (phase : Phase) (env : List EnvEvent) : State :=
  inPhase 4294967296 code pos known phase env

/-- A queue of capacity 1 that holds `q`. -/
def oneRoom (q : List Command) (phase : Phase) (env : List EnvEvent) : State :=
  { anyCode 0x10#32 0#7 true phase env with cfg.cmdqCap := some 1, cmdq := q }

/-- One part of the next state. -/
def nextPart {α : Type} (o : Host.Outcome State Fault Refusal) (f : State → α) : Option α :=
  match o with
  | .next t => some (f t)
  | _ => none

/-- What the controller vectors compare. -/
structure Registers where
  code : U32
  stored : Option U32
  pos : Nat
  known : Bool
  moving : Bool
  evlog : List LogEvent
deriving DecidableEq, Repr

/-- These parts of a state. -/
def registers (t : State) : Registers := ⟨t.code, t.stored, t.pos.toNat, t.known, t.moving, t.evlog⟩

/-- The (code, button, repeat) of each transmission. -/
def sent (t : State) : List (U32 × Button × Nat) := t.txlog.map fun e => (e.code, e.button, e.rep)

/-- ST3. -/
theorem test_store_ST3 :
    registers (commit 0x11#32 .err (idle 0x10#32 0#7 true [])) =
      ⟨0x11#32, some 0x10#32, 0, true, false, [.persistenceFailure 0x11#32]⟩ := by decide

/-- ST9 and ST10. -/
theorem test_store_ST9_ST10 : (load none { State.reset with cfg.startCode := 5#32 }).code = 5#32 ∧
    (load (some 0#32) { State.reset with cfg.startCode := 5#32 }).code = 0#32 := by decide

/-- K21: `OPEN` with a failed write. -/
theorem test_open_K21 :
    nextPart (exec .openCover (idle 0x10#32 0#7 true (burstAnswers .err))) registers =
      some ⟨0x11#32, some 0x10#32, 100, true, false,
        [.persistenceFailure 0x11#32, .done (.command .openCover) .ok]⟩ := by decide +kernel

/-- K14: `OPEN` failed at repeat 4. -/
theorem test_open_K14 :
    nextPart (exec .openCover (idle 0x10#32 0#7 true (failedAnswers 3 .ok))) (fun t => (t.known, t.pos, sent t)) =
      some (false, 0#7, [1, 2, 3, 4].map fun r => (0x10#32, Button.btnOpen, r)) := by decide +kernel

/-- K2: `CLOSE`. -/
theorem test_close_K2 :
    nextPart (exec .closeCover (idle 0x11#32 100#7 true (burstAnswers .ok))) registers =
      some ⟨0x12#32, some 0x12#32, 0, true, false, [.done (.command .closeCover) .ok]⟩ := by decide +kernel

/-- K3: `STOP` clears `KNOWN` and keeps `POS`. -/
theorem test_stop_K3 :
    nextPart (exec .stopCover (idle 0x12#32 70#7 true (burstAnswers .ok))) registers =
      some ⟨0x13#32, some 0x13#32, 70, false, false, [.done (.command .stopCover) .ok]⟩ := by decide +kernel

/-- K16: `STOP` outside the table keeps `KNOWN`. -/
theorem test_stop_K16 :
    nextPart (exec .stopCover (idle 0x40#32 0#7 true [])) (fun t => (t.known, t.evlog)) =
      some (true, [.done (.command .stopCover) (.invalidCodeIndex 0x40#32)]) := by decide +kernel

/-- K9: `SET_POSITION(20)` from 80. -/
theorem test_set_position_K9 :
    nextPart (exec (.setPosition 20#8) (idle 0x10#32 80#7 true (burstAnswers .ok ++ .elapsed :: burstAnswers .ok)))
        (fun t => (registers t, t.publog, (sent t).map fun e => e.2.1)) =
      some (⟨0x12#32, some 0x12#32, 20, true, false, [.done (.command (.setPosition 20#8)) .ok]⟩,
        [⟨.partiallyOpen, 20#7⟩],
        List.replicate 6 .btnClose ++ List.replicate 6 .btnStop) := by decide +kernel

/-- K11: the wait is 3/8 s, exactly. -/
theorem test_set_position_K11 : waitSeconds { tables with tTotal := 25 / 2 } 0#7 3#8 = 3 / 8 := by
  norm_num [waitSeconds, delta]

/-- R179, "any error on the `STOP` burst": the code of the `STOP` burst is outside the table. -/
theorem test_set_position_R179_stop_burst :
    nextPart (exec (.setPosition 60#8) (idle 0x3F#32 0#7 true (burstAnswers .ok ++ [.elapsed]))) registers =
      some ⟨0x40#32, some 0x40#32, 0, false, false,
        [.done (.command (.setPosition 60#8)) (.invalidCodeIndex 0x40#32)]⟩ := by decide +kernel

/-- A frame of an `OPEN` burst at repeat 1 runs on to repeat 2: the frames of V3. -/
theorem test_frame_open_V3 :
    nextPart (exec (.frameOpen 0#4 0xA#4 0x5432#16 0x5C3E10#24)
        { State.resetWith tables none with phase := .tx .cmdOpen .btnOpen 1 0xE0A54325C3E10#52, env := [.driver .ok] })
        (fun t => (t.phase, t.txlog.map TxEntry.train)) =
      some (.tx .cmdOpen .btnOpen 2 0xE3A54325C3E10#52, [serialize 0xE0A54325C3E10#52]) := by decide +kernel

/-- A frame of a `STOP` burst at repeat 1 that fails. -/
theorem test_frame_stop_err :
    nextPart (exec (.frameStop 3#4 0xA#4 0x5432#16 0x5C3E10#24)
        { State.resetWith tables none with phase := .tx .cmdStop .btnStop 1 0xD3A54325C3E10#52, env := [.driver .err] })
        State.phase =
      some (.persist .cmdStop 0x11#32 (.driverFailure 0x10#32 1)) := by decide +kernel

/-- The last frame of a `CLOSE` burst. -/
theorem test_frame_close_V2 :
    nextPart (exec (.frameClose 2#4 0xA#4 0x5432#16 0x5C3E10#24)
        { State.resetWith tables none with
          phase := .tx .cmdClose .btnClose 6 0xB2A54325C3E10#52, env := [.driver .ok] })
        (fun t => (t.phase, t.txlog.map TxEntry.rep)) =
      some (.persist .cmdClose 0x11#32 .ok, [6]) := by decide +kernel

/-- K24: a command during the guard. -/
theorem test_delivery_K24 :
    nextPart (step (inPhase 0x40 0x10#32 0#7 true .guard [.deliver (.word 0x0100#16)])) (fun t => (t.cmdq, t.evlog)) =
      some ([], [.ignored .openCover]) := by decide +kernel

/-- K25: an invalid payload during a wait. -/
theorem test_delivery_K25 :
    nextPart (step (inPhase 0x40 0x10#32 0#7 true (.wait 50#8 50) [.deliver (.text (ascii "set") (ascii "open"))]))
        (fun t => (t.phase, t.evlog)) =
      some (.wait 50#8 50, [.invalidCommandPayload (.raw (.text (ascii "set") (ascii "open")))]) := by decide +kernel

/-- R186: at capacity an invalid delivery is not made either, and in the guard of a queue of capacity 0 none is. -/
theorem test_delivery_full :
    step (oneRoom [.stopCover] .guard [.deliver (.word 0x0865#16)]) =
        .next (oneRoom [.stopCover] .guard [.deliver (.word 0x0865#16)]) ∧
      step { oneRoom [] .guard [.deliver (.word 0x0100#16)] with cfg.cmdqCap := some 0 } =
        .next { oneRoom [] .guard [.deliver (.word 0x0100#16)] with cfg.cmdqCap := some 0 } := ⟨rfl, rfl⟩

/-- P6: the last code of the range. -/
theorem test_startup_P6 :
    nextPart (step { State.reset with
        cfg.startCode := 0xFFFFFFFF#32, env := List.replicate 6 (.driver .ok) ++ [.deliver (.word 0x0100#16)] })
        (fun t => (t.phase, t.evlog, t.publog, t.env.length)) =
      some (.halted .codeExhausted, [.codeExhausted 0xFFFFFFFF#32], [], 1) := by decide +kernel

/-- R24 and R225: a `SET_POSITION` that `CodeExhausted` ends leaves `MOVING` 0. -/
theorem test_exhausted_R24 :
    nextPart (step { inPhase 4294967296 0xFFFFFFFF#32 0#7 true (.tx (.spDir 60#8) .btnOpen 6 0xE7DFFFFCBA987#52)
        [.driver .ok] with moving := true }) (fun t => (t.phase, t.moving, t.evlog)) =
      some (.halted .codeExhausted, false, [.codeExhausted 0xFFFFFFFF#32]) := by decide +kernel

/-- A placed value of a reserved button is refused, and one beyond 52 bits places nothing (log 15). -/
theorem test_placed_non_rows :
    step (State.reset.withFetchWord 56 0xF000000000100) = .refused .reservedFrame ∧
      State.reset.withFetchWord 56 0x10000000000100 = State.reset ∧
      nextPart (step (State.reset.withFetchWord 16 0x0865)) State.evlog =
        some [.invalidCommandPayload (.raw (.word 0x0865#16))] := ⟨rfl, by decide +kernel, by decide +kernel⟩

/-- Each row runs as the first instruction after reset. -/
theorem test_placed_words :
    [(16, 0x0100), (16, 0x0200), (16, 0x0400), (16, 0x0832)].map
        (fun p => nextPart (step (State.reset.withFetchWord p.1 p.2)) fun t => (t.cmdq, t.phase)) =
      [some ([], .tx .cmdOpen .btnOpen 1 0xE0DFFFFCBA987#52), some ([], .tx .cmdStop .btnStop 1 0xD3DFFFFCBA987#52),
        some ([], .tx .cmdClose .btnClose 1 0xB5DFFFFCBA987#52),
        some ([], .tx (.spRehome 50#8) .btnClose 1 0xB5DFFFFCBA987#52)] := by decide +kernel

/-! ### Witnesses: for each obligation with hypotheses, a state and operands that meet them -/

/-- The external moves of a `SET_POSITION` from a known position. -/
def moveAnswers (a : Answer) : List EnvEvent := burstAnswers a ++ .elapsed :: (burstAnswers a ++ [])

theorem witness_FrameFields : inDomain (idle 0x3F#32 0#7 true []).cfg 0x3F#32 = true := by decide

theorem witness_InvalidCodeIndexExactly :
    (0xFFFF#32).toNat < tables.encodeTable.size ∧ (0xFFFF#32 &&& 0xFF#32).toNat < tables.kiTable.size := by decide

theorem witness_FrameConsequences :
    encodeFrame tables 0x12345678#32 0x10#32 Button.btnClose.code 1 = .frame 0xB5A54325C3E10#52 ∧
      encodeFrame tables 0x12345678#32 0x10#32 Button.btnClose.code 6 = .frame 0xB2A54325C3E10#52 ∧
      (¬(44 ≤ 43 ∧ 43 ≤ 47)) ∧ (¬(44 ≤ 48 ∧ 48 ≤ 47)) ∧
      (0xF0000000#32).setWidth 28 = (0x00000000#32).setWidth 28 := by decide +kernel

theorem witness_EncodedFramesAreRows :
    encodeFrame tables 0x12345678#32 0x10#32 Button.btnStop.code 1 = .frame 0xD3A54325C3E10#52 := by decide +kernel

theorem witness_TrainProperties : 51 ≤ 51 ∧ 2 + 2 * (51 - 51) < 109 ∧ 0 ≤ 51 ∧ 3 + 2 * (51 - 0) < 109 := by decide

theorem witness_TrainDeterminesFrame : serialize 0xB5A54325C3E10#52 = serialize 0xB5A54325C3E10#52 := rfl

theorem witness_LoadChoosesCode :
    ∃ s t u : State, s.phase = .reset ∧ s.env = [] ∧ s.stored = some 0#32 ∧ t.phase = .reset ∧ t.env = [] ∧
      t.stored = none ∧ u.phase = .reset ∧ u.env = [.unreadable] :=
  ⟨State.resetWith tables (some 0#32), State.reset, { State.reset with env := [.unreadable] }, by decide⟩

theorem witness_WriteAnswerCommits :
    (anyCode 0x10#32 0#7 true (.persist .cmdOpen 0x11#32 .ok) [.storage .err]).phase = .persist .cmdOpen 0x11#32 .ok ∧
      (anyCode 0x10#32 0#7 true (.persist .cmdOpen 0x11#32 .ok) [.storage .err]).env = .storage .err :: [] :=
  ⟨rfl, rfl⟩

theorem witness_CodeExhaustedHalts :
    let s (env : List EnvEvent) := anyCode 0xFFFFFFFF#32 0#7 true .idle env
    oneBurst .openCover = some .btnOpen ∧ (s []).code = 0xFFFFFFFF#32 ∧ inDomain (s []).cfg (s []).code = true ∧
      (s (List.replicate 6 (.driver .ok))).env = List.replicate 6 (.driver .ok) ++ [] ∧ 5 < 6 ∧
      (s (List.replicate 5 (.driver .ok) ++ [.driver .err])).env = List.replicate 5 (.driver .ok) ++ .driver .err :: [] ∧
      (s [.driver .err]).env = List.replicate 0 (.driver .ok) ++ .driver .err :: [] := by decide

theorem witness_CodeExhaustedHaltsSetPosition :
    let oks : List EnvEvent := List.replicate 6 (.driver .ok) ++ []
    let errs : List EnvEvent := List.replicate 5 (.driver .ok) ++ .driver .err :: []
    let s (code : U32) (known : Bool) (env : List EnvEvent) := anyCode code 0#7 known .idle env
    (s 0#32 true []).cfg.tTotal ≠ 0 ∧ (100#8).toNat ≤ 100 ∧ 5 < 6 ∧ inDomain (s 0#32 true []).cfg 0xFFFFFFFF#32 = true ∧
      (s 0xFFFFFFFF#32 true oks).known = true ∧ (s 0xFFFFFFFF#32 true oks).pos.toNat ≠ (100#8).toNat ∧
      (s 0xFFFFFFFF#32 true oks).env = oks ∧ (s 0xFFFFFFFF#32 true errs).env = errs ∧
      (s 0xFFFFFFFE#32 true []).code = 0xFFFFFFFE#32 ∧ inDomain (s 0#32 true []).cfg 0xFFFFFFFE#32 = true ∧
      (s 0xFFFFFFFE#32 true (burstAnswers .err ++ .elapsed :: oks)).env = burstAnswers .err ++ .elapsed :: oks ∧
      (s 0xFFFFFFFE#32 true (burstAnswers .ok ++ .elapsed :: errs)).env = burstAnswers .ok ++ .elapsed :: errs ∧
      (s 0xFFFFFFFF#32 false oks).known = false := by decide +kernel

theorem witness_HaltedNeverSteps :
    let s (env : List EnvEvent) := anyCode 0xFFFFFFFF#32 0#7 true (.halted .codeExhausted) env
    (s []).phase = .halted .codeExhausted ∧ (s []).env = [] ∧ (∃ t, step (s [.reconnect]) = .next t) ∧
      (s [.reconnect]).env.head? ≠ some .restart := ⟨rfl, rfl, ⟨_, rfl⟩, by decide⟩

theorem witness_OpenCompletes_CloseCompletes_StopCompletes :
    let s := anyCode 0xFFFFFFFE#32 100#7 true .idle (burstAnswers .err)
    inDomain s.cfg s.code = true ∧ s.code ≠ 0xFFFFFFFF#32 ∧ s.env = burstAnswers .err ++ [] := by decide

theorem witness_SetPositionCompletes :
    let s := anyCode 0xFFFFFFFD#32 0#7 true .idle (moveAnswers .ok)
    s.cfg.tTotal ≠ 0 ∧ s.known = true ∧ (100#8).toNat ≤ 100 ∧ s.pos.toNat ≠ (100#8).toNat ∧
      inDomain s.cfg s.code = true ∧ inDomain s.cfg (s.code + 1#32) = true ∧ s.code.toNat < 0xFFFFFFFE ∧
      s.env = burstAnswers .ok ++ .elapsed :: (burstAnswers .ok ++ []) := by decide +kernel

theorem witness_SetPositionWaits :
    let s := anyCode 0xFFFFFFFE#32 100#7 true .idle (burstAnswers .ok)
    s.cfg.tTotal ≠ 0 ∧ s.known = true ∧ (0#8).toNat ≤ 100 ∧ s.pos.toNat ≠ (0#8).toNat ∧ s.cmdq = [] ∧
      inDomain s.cfg s.code = true ∧ s.code ≠ 0xFFFFFFFF#32 ∧ s.env = burstAnswers .ok := by decide +kernel

theorem witness_SetPositionAtTarget :
    let s := anyCode 0xFFFFFFFF#32 100#7 true .idle []
    s.cfg.tTotal ≠ 0 ∧ s.known = true ∧ s.pos.toNat = (100#8).toNat := by decide +kernel

theorem witness_SetPositionRehomes :
    let s := anyCode 0xFFFFFFFC#32 50#7 false .idle (burstAnswers .ok ++ moveAnswers .ok)
    s.cfg.tTotal ≠ 0 ∧ s.known = false ∧ (1#8).toNat ≤ 100 ∧ (refPos s.cfg).toNat ≠ (1#8).toNat ∧
      inDomain s.cfg s.code = true ∧ inDomain s.cfg (s.code + 1#32) = true ∧ inDomain s.cfg (s.code + 2#32) = true ∧
      s.code.toNat < 0xFFFFFFFD ∧
      s.env = burstAnswers .ok ++ (burstAnswers .ok ++ .elapsed :: (burstAnswers .ok ++ [])) := by decide +kernel

theorem witness_SetPositionToReference :
    let s := anyCode 0xFFFFFFFE#32 70#7 false .idle (burstAnswers .ok)
    s.cfg.tTotal ≠ 0 ∧ s.known = false ∧ (refPos s.cfg).toNat = (0#8).toNat ∧ inDomain s.cfg s.code = true ∧
      s.code ≠ 0xFFFFFFFF#32 ∧ s.env = burstAnswers .ok ++ [] := by decide +kernel

theorem witness_SetPositionRefused :
    let s : State := { State.reset with cfg.tTotal := 0, phase := .idle, cmdq := [.setPosition 50#8] }
    s.cfg.tTotal = 0 ∧ s.phase = .idle ∧ s.env = [] ∧ s.cmdq = .setPosition 50#8 :: [] := by decide +kernel

theorem witness_SetPositionCancelled :
    let s : State := { anyCode 0x31#32 0#7 true .idle (burstAnswers .ok ++ [.proceed]) with cmdq := [.stopCover] }
    let u : State := oneRoom [] .idle (burstAnswers .ok ++ [.deliver (.word 0x0200#16)])
    (s.cfg.tTotal ≠ 0 ∧ s.known = true ∧ (80#8).toNat ≤ 100 ∧ s.pos.toNat ≠ (80#8).toNat ∧
      inDomain s.cfg s.code = true ∧ s.code ≠ 0xFFFFFFFF#32 ∧ s.cmdq ≠ [] ∧ s.env = burstAnswers .ok ++ .proceed :: []) ∧
    (u.cfg.tTotal ≠ 0 ∧ u.known = true ∧ u.pos.toNat ≠ (80#8).toNat ∧ inDomain u.cfg u.code = true ∧
      u.code ≠ 0xFFFFFFFF#32 ∧ decodeRaw (.word 0x0200#16) = some .stopCover ∧ hasRoom u = true ∧
      u.env = burstAnswers .ok ++ [.deliver (.word 0x0200#16)]) := by decide +kernel

theorem witness_InvalidCodeEndsCommand :
    let s (known : Bool) := idle 0x40#32 0#7 known []
    inDomain (s true).cfg (s true).code = false ∧ oneBurst .stopCover = some .btnStop ∧ (s true).cfg.tTotal ≠ 0 ∧
      (s true).known = true ∧ (s true).pos.toNat ≠ (1#8).toNat ∧ inDomain (s false).cfg (s false).code = false ∧
      (s false).known = false := by decide +kernel

theorem witness_InvalidCodeEndsLaterBurst :
    let env₁ : List EnvEvent := burstAnswers .ok ++ .elapsed :: []
    let env₃ : List EnvEvent := burstAnswers .ok ++ (burstAnswers .err ++ .elapsed :: [])
    let s (code : U32) (known : Bool) (env : List EnvEvent) := idle code 0#7 known env
    (s 0x3F#32 true env₁).cfg.tTotal ≠ 0 ∧ (60#8).toNat ≤ 100 ∧ inDomain (s 0x3F#32 true env₁).cfg 0x3F#32 = true ∧
      (0x3F#32).toNat < 0xFFFFFFFE ∧ (s 0x3F#32 true env₁).pos.toNat ≠ (60#8).toNat ∧
      inDomain (s 0x3F#32 true env₁).cfg (0x3F#32 + 1#32) = false ∧ (s 0x3F#32 true env₁).env = env₁ ∧
      (s 0x3F#32 false (burstAnswers .ok)).known = false ∧ (refPos (s 0x3F#32 false []).cfg).toNat ≠ (60#8).toNat ∧
      (s 0x3F#32 false (burstAnswers .ok)).env = burstAnswers .ok ++ [] ∧
      inDomain (s 0x3E#32 false env₃).cfg 0x3E#32 = true ∧
      inDomain (s 0x3E#32 false env₃).cfg (0x3E#32 + 1#32) = true ∧
      inDomain (s 0x3E#32 false env₃).cfg (0x3E#32 + 2#32) = false ∧ (s 0x3E#32 false env₃).env = env₃ := by
  decide +kernel

theorem witness_DriverFailureEndsCommand :
    let s (n : Nat) := anyCode 0xFFFFFFFE#32 0#7 true .idle (failedAnswers n .err)
    oneBurst .closeCover = some .btnClose ∧ 0 < 6 ∧ 5 < 6 ∧ inDomain (s 0).cfg (s 0).code = true ∧
      (s 0).code ≠ 0xFFFFFFFF#32 ∧ (s 0).env = failedAnswers 0 .err ++ [] ∧ (s 5).env = failedAnswers 5 .err ++ [] := by
  decide

theorem witness_DriverFailureEndsSetPosition :
    let s (code : U32) (known : Bool) (env : List EnvEvent) := anyCode code 0#7 known .idle env
    let env₂ : List EnvEvent := burstAnswers .ok ++ .elapsed :: (failedAnswers 5 .ok ++ [])
    let env₄ : List EnvEvent := burstAnswers .ok ++ (failedAnswers 0 .err ++ [])
    let env₅ : List EnvEvent := burstAnswers .ok ++ (burstAnswers .ok ++ .elapsed :: (failedAnswers 5 .ok ++ []))
    let cfg : Config := (s 0#32 true []).cfg
    cfg.tTotal ≠ 0 ∧ (60#8).toNat ≤ 100 ∧ 5 < 6 ∧ 0 < 6 ∧ inDomain cfg 0xFFFFFFFD#32 = true ∧
      (0xFFFFFFFD#32).toNat < 0xFFFFFFFE ∧ (s 0xFFFFFFFD#32 true []).pos.toNat ≠ (60#8).toNat ∧
      (s 0xFFFFFFFD#32 true (failedAnswers 5 .ok)).env = failedAnswers 5 .ok ++ [] ∧
      inDomain cfg (0xFFFFFFFD#32 + 1#32) = true ∧ (s 0xFFFFFFFD#32 true env₂).env = env₂ ∧
      (s 0xFFFFFFFD#32 false []).known = false ∧
      (s 0xFFFFFFFD#32 false (failedAnswers 0 .ok)).env = failedAnswers 0 .ok ++ [] ∧
      (refPos cfg).toNat ≠ (60#8).toNat ∧ (s 0xFFFFFFFD#32 false env₄).env = env₄ ∧
      inDomain cfg 0xFFFFFFFC#32 = true ∧ inDomain cfg (0xFFFFFFFC#32 + 1#32) = true ∧
      inDomain cfg (0xFFFFFFFC#32 + 2#32) = true ∧ (0xFFFFFFFC#32).toNat < 0xFFFFFFFD ∧
      (s 0xFFFFFFFC#32 false env₅).env = env₅ := by decide +kernel

theorem witness_FrameTransmits :
    let s (code : U32) (rep : Nat) (a : Answer) := anyCode code 0#7 true (.tx .cmdOpen .btnOpen rep 0#52) [.driver a]
    (s 0x10#32 5 .ok).phase = .tx .cmdOpen .btnOpen 5 0#52 ∧ (s 0x10#32 5 .ok).env = .driver .ok :: [] ∧ 5 < 6 ∧
      inDomain (s 0x10#32 5 .ok).cfg 0x10#32 = true ∧
      (s 0xFFFFFFFE#32 6 .ok).phase = .tx .cmdOpen .btnOpen 6 0#52 ∧ (s 0xFFFFFFFE#32 6 .ok).code ≠ 0xFFFFFFFF#32 ∧
      (s 0xFFFFFFFF#32 1 .err).env = .driver .err :: [] ∧ (s 0xFFFFFFFF#32 1 .err).code = 0xFFFFFFFF#32 := by decide

theorem witness_FrameOtherwiseInert :
    (∀ a, State.reset.env.head? ≠ some (.driver a)) ∧
      (∀ ctx rep f, (anyCode 0x10#32 0#7 true (.tx .cmdOpen .btnOpen 1 0#52) [.driver .ok]).phase ≠
        .tx ctx .btnStop rep f) := by
  refine ⟨fun a => ?_, fun ctx rep f => ?_⟩ <;> simp [State.reset, State.resetWith, anyCode, inPhase]

theorem witness_CommandFrame_HistoriesOnlyGrow :
    (∃ t, exec Command.stopCover.toInstr (idle 0x10#32 0#7 true [.reconnect]) = .next t) ∧
      ∃ t, step (idle 0x10#32 0#7 true [.reconnect]) = .next t := ⟨⟨_, rfl⟩, ⟨_, rfl⟩⟩

theorem witness_StepRunsQueuedCommand :
    let s (env : List EnvEvent) : State := { idle 0x10#32 0#7 true env with cmdq := [.openCover] }
    (s []).phase = .idle ∧ (s []).cmdq = .openCover :: [] ∧ (s []).env = [] ∧ (s [.proceed]).env = .proceed :: [] ∧
      (s [.driver .ok]).env = .driver .ok :: [] ∧ accepts (.driver .ok) (s [.driver .ok]) = false := by decide

theorem witness_StepRunsFrame_PlacedWordRuns :
    let s := anyCode 0x10#32 0#7 true (.tx .cmdOpen .btnOpen 1 0xE0A54325C3E10#52) [.driver .ok]
    s.phase = .tx .cmdOpen .btnOpen 1 0xE0A54325C3E10#52 ∧ s.env = .driver .ok :: [] ∧
      decodeFrame 0xE0A54325C3E10#52 = some (.frameOpen 0#4 0xA#4 0x5432#16 0x5C3E10#24) ∧
      decode16 0x0864#16 = some (.setPosition 100#8) ∧ decode16 0x0865#16 = none ∧ s.cfg.cmdqCap = none ∧
      decodeFrame 0xF000000000100#52 = none := by decide

theorem witness_WaitEnds :
    let s (q : List Command) (env : List EnvEvent) : State :=
      { anyCode 0xFFFFFFFF#32 0#7 true (.wait 50#8 50) env with cmdq := q }
    (s [] []).phase = .wait 50#8 50 ∧ (s [.stopCover] [.elapsed]).env = .elapsed :: [] ∧
      inDomain (s [] []).cfg (s [] []).code = true ∧ (s [.stopCover] []).cmdq ≠ [] ∧
      (s [.stopCover] [.proceed]).env = .proceed :: [] ∧ (s [.stopCover] []).env = [] := by decide +kernel

theorem witness_WaitingKeepsState :
    let s (p : Phase) := anyCode 0x10#32 0#7 true p []
    (s .guard).env = [] ∧ (s (.tx .cmdOpen .btnOpen 1 0#52)).phase = .tx .cmdOpen .btnOpen 1 0#52 ∧
      (s (.persist .cmdOpen 0x11#32 .ok)).phase = .persist .cmdOpen 0x11#32 .ok ∧ (s .guard).phase = .guard ∧
      (s .idle).cmdq = [] ∧ (s .idle).phase = .idle ∧ (s (.wait 1#8 1)).phase = .wait 1#8 1 := by decide +kernel

/-- A queue of capacity 1 with nothing in it has room. -/
theorem oneRoom_room (phase : Phase) (env : List EnvEvent) :
    ∀ cap, (oneRoom [] phase env).cfg.cmdqCap = some cap → (oneRoom [] phase env).cmdq.length < cap := by
  intro cap h
  cases h
  exact Nat.zero_lt_one

theorem witness_InvalidDeliveryReported :
    (∀ cap, (oneRoom [] .guard []).cfg.cmdqCap = some cap → (oneRoom [] .guard []).cmdq.length < cap) ∧
      decodeRaw (.word 0x0865#16) = none ∧
      (oneRoom [] .guard [.deliver (.word 0x0865#16)]).env = .deliver (.word 0x0865#16) :: [] :=
  ⟨oneRoom_room _ _, by decide, rfl⟩

theorem witness_DeliveryAdmitted :
    (∀ cap, (oneRoom [] .idle []).cfg.cmdqCap = some cap → (oneRoom [] .idle []).cmdq.length < cap) ∧
      decodeRaw (.word 0x0100#16) = some .openCover ∧ startupWindow (oneRoom [] .guard []).phase = true ∧
      startupWindow (oneRoom [] .idle []).phase = false ∧
      (oneRoom [] .idle [.deliver (.word 0x0100#16)]).env = .deliver (.word 0x0100#16) :: [] :=
  ⟨oneRoom_room _ _, by decide, by decide, by decide, rfl⟩

theorem witness_FullQueueAdmitsNoDelivery :
    let s (p : Phase) := oneRoom [.stopCover] p [.deliver (.word 0x0865#16)]
    let e (p : Phase) : State := { s p with cfg.cmdqCap := some 0, cmdq := [] }
    let o : State := { e .reset with cfg.encodeTable := ⟨0x10, []⟩ }
    let p : Phase := .tx .cmdOpen .btnOpen 1 0#52
    let p' : Phase := .persist .cmdOpen 0x11#32 .ok
    (s p).env = .deliver (.word 0x0865#16) :: [] ∧ (s p).cfg.cmdqCap = some 1 ∧ 1 ≤ (s p).cmdq.length ∧
      (s p).phase = p ∧ (s p').phase = p' ∧ (s .guard).phase = .guard ∧ (e .idle).cfg.cmdqCap = some 0 ∧
      0 ≤ (e .idle).cmdq.length ∧ (e .idle).cmdq = [] ∧ (e .idle).phase = .idle ∧
      (e (.wait 1#8 1)).phase = .wait 1#8 1 ∧ (s (.wait 1#8 1)).phase = .wait 1#8 1 ∧ (s .guard).cmdq ≠ [] ∧
      (s .idle).cmdq = .stopCover :: [] ∧ (e .reset).phase = .reset ∧
      0x10#32 = (e .reset).stored.getD (e .reset).cfg.startCode ∧ inDomain (e .reset).cfg 0x10#32 = true ∧
      o.phase = .reset ∧ 0x10#32 = o.stored.getD o.cfg.startCode ∧ inDomain o.cfg 0x10#32 = false ∧
      (s (.halted .codeExhausted)).phase = .halted .codeExhausted := by
  decide +kernel

theorem witness_ReconnectPublishes_RestartResets :
    (anyCode 0x10#32 0#7 true .guard [.reconnect]).env = .reconnect :: [] ∧
      (anyCode 0x10#32 0#7 true .guard [.restart]).env = .restart :: [] := by decide

theorem witness_StartupCompletes :
    let s (env : List EnvEvent) : State := { State.resetWith (anyCode 0#32 0#7 true .idle []).cfg (some 0xFFFFFFFE#32) with env := env }
    let env₂ : List EnvEvent := burstAnswers .err ++ .deliver (.word 0x0100#16) :: .elapsed :: []
    (s []).phase = .reset ∧ 0xFFFFFFFE#32 = (s []).stored.getD (s []).cfg.startCode ∧
      inDomain (s []).cfg 0xFFFFFFFE#32 = true ∧ 0xFFFFFFFE#32 ≠ 0xFFFFFFFF#32 ∧
      (s (burstAnswers .err ++ .elapsed :: [])).env = burstAnswers .err ++ .elapsed :: [] ∧
      decodeRaw (.word 0x0100#16) = some .openCover ∧ (s env₂).cfg.cmdqCap = none ∧ (s env₂).env = env₂ := by decide

theorem witness_ReferenceMoveLeaves :
    let s : State := { State.reset with env := burstAnswers .ok ++ .elapsed :: [] }
    s.phase = .reset ∧ s.moving = false ∧ 0x10#32 = s.stored.getD s.cfg.startCode ∧ inDomain s.cfg 0x10#32 = true ∧
      0x10#32 ≠ 0xFFFFFFFF#32 ∧ s.env = burstAnswers .ok ++ .elapsed :: [] := by decide

theorem witness_StartupFailures :
    let s (code : U32) (env : List EnvEvent) : State := { State.resetWith (idle 0#32 0#7 true []).cfg (some code) with env := env }
    (s 0x40#32 []).phase = .reset ∧ 0x40#32 = (s 0x40#32 []).stored.getD (s 0x40#32 []).cfg.startCode ∧
      inDomain (s 0x40#32 []).cfg 0x40#32 = false ∧ (s 0x40#32 [.elapsed]).env = .elapsed :: [] ∧ 5 < 6 ∧
      0x3F#32 = (s 0x3F#32 []).stored.getD (s 0x3F#32 []).cfg.startCode ∧ inDomain (s 0x3F#32 []).cfg 0x3F#32 = true ∧
      (s 0x3F#32 (failedAnswers 5 .ok ++ .elapsed :: [])).env = failedAnswers 5 .ok ++ .elapsed :: [] := by decide

theorem witness_ResetLegal : configWf Config.example = true := by decide +kernel

/-- A burst of `OPEN` in progress at repeat 2, with the Driver's answer to come. -/
def midBurst : State :=
  { State.resetWith tables (some 0x10#32) with
    phase := .tx .cmdOpen .btnOpen 2 0xE3A54325C3E10#52
    txlog := [⟨0x10#32, .btnOpen, 1, serialize 0xE0A54325C3E10#52, .ok⟩]
    env := [.driver .ok] }

theorem midBurst_legal : midBurst.Legal := by
  refine ⟨by decide +kernel, by decide, ⟨?_, ?_, ?_⟩, ?_, ?_⟩
  · intro c h; cases h
  · intro cap h; cases h
  · intro h; cases h
  · exact ⟨rfl, rfl, by decide, by decide, by decide +kernel⟩
  · exact ⟨rfl, fun h => (by cases h), fun h => (by cases h)⟩

theorem witness_StepKeepsLegal_LegalStatesRun : midBurst.Legal ∧ ∃ t, step midBurst = .next t :=
  ⟨midBurst_legal, ⟨_, rfl⟩⟩

theorem witness_StepKeepsLogFaithful : midBurst.Legal ∧ midBurst.LogFaithful ∧ ∃ t, step midBurst = .next t := by
  refine ⟨midBurst_legal, fun e he => ?_, ⟨_, rfl⟩⟩
  rw [show midBurst.txlog = [⟨0x10#32, .btnOpen, 1, serialize 0xE0A54325C3E10#52, .ok⟩] from rfl, List.mem_singleton] at he
  subst he
  exact ⟨by decide, by decide, 0xE0A54325C3E10#52, by decide +kernel, rfl⟩

theorem witness_StepKeepsCodesInOrder :
    midBurst.Legal ∧ midBurst.CodesInOrder ∧ midBurst.env.head? ≠ some .restart ∧ ∃ t, step midBurst = .next t :=
  ⟨midBurst_legal, ⟨⟨rfl, trivial⟩, .inr ⟨rfl, rfl, rfl, rfl⟩⟩, by decide, ⟨_, rfl⟩⟩

theorem witness_CodesNeverReused :
    let s : State := { midBurst with txlog := midBurst.txlog ++ [⟨0x10#32, .btnOpen, 2, serialize 0xE3A54325C3E10#52, .err⟩], phase := .halted .codeExhausted }
    s.CodesInOrder ∧ 0 < 1 ∧ s.txlog[0]? = some ⟨0x10#32, .btnOpen, 1, serialize 0xE0A54325C3E10#52, .ok⟩ ∧
      s.txlog[1]? = some ⟨0x10#32, .btnOpen, 2, serialize 0xE3A54325C3E10#52, .err⟩ :=
  ⟨⟨⟨rfl, .inr ⟨rfl, rfl, rfl, rfl⟩, trivial⟩, ⟨_, rfl, rfl⟩⟩, by decide, rfl, rfl⟩

theorem witness_StepKeepsStoredBehind :
    (midBurst.Legal ∧ midBurst.StoredBehind ∧ (midBurst.phase = .reset → midBurst.env.head? ≠ some .unreadable) ∧
      ∃ t, step midBurst = .next t) ∧
    ((State.resetWith tables (some 0x10#32)).StoredBehind ∧ (State.resetWith tables (some 0x10#32)).phase = .reset ∧
      (State.resetWith tables (some 0x10#32)).env.head? ≠ some .unreadable ∧
      ∃ t, step (State.resetWith tables (some 0x10#32)) = .next t) := by
  refine ⟨⟨midBurst_legal, fun v h => ?_, by decide, ⟨_, rfl⟩⟩, fun v h => ?_, rfl, by decide, ⟨_, rfl⟩⟩ <;>
    cases h <;> decide

theorem witness_DirectionTowardTarget :
    (0#7).toNat ≤ 100 ∧ (100#8).toNat ≤ 100 ∧ (0#7).toNat < (100#8).toNat ∧ (100#7).toNat ≤ 100 ∧
      (0#8).toNat ≤ 100 ∧ (0#8).toNat < (100#7).toNat := by decide

end Sys2Proof.Tests
end

/-! PROOFS. Family 30_encoding.md: command words (R75), text commands (R72) and invalid deliveries (R73). -/

namespace Sys2Proof.Proofs

open Sys2Proof.Machine

/-! ### Command words -/

/-- The `KIND` byte of a command's word (30_encoding.md R74). -/
def kindByte : Command → Byte
  | .openCover => 0x01#8
  | .stopCover => 0x02#8
  | .closeCover => 0x04#8
  | .setPosition _ => 0x08#8

/-- The `ARG` byte of a command's word (30_encoding.md R74). -/
def argByte : Command → Byte
  | .openCover => 0#8
  | .stopCover => 0#8
  | .closeCover => 0#8
  | .setPosition t => t

/-- The encoder writes `KIND` above `ARG`. -/
theorem encode_toInstr (c : Command) : encode c.toInstr = .command (kindByte c ++ argByte c) := by
  cases c <;> rfl

/-- A command word is its `KIND` byte above its `ARG` byte. -/
theorem commandWord_eq_append_iff (w : CommandWord) (kind arg : Byte) :
    w = kind ++ arg ↔ w.extractLsb' 8 8 = kind ∧ w.extractLsb' 0 8 = arg := by
  constructor
  · rintro rfl
    exact ⟨BitVec.extractLsb'_append_eq_left, BitVec.extractLsb'_append_eq_right⟩
  · rintro ⟨rfl, rfl⟩
    rw [BitVec.extractLsb'_append_extractLsb'_eq_extractLsb' (by rfl)]
    exact BitVec.extractLsb'_eq_self.symm

/-- `decode16` answers a command exactly when that command is well formed and the word's two bytes are its own. -/
theorem decode16_eq_some_iff_append (w : CommandWord) (c : Command) :
    decode16 w = some c ↔ c.wf = true ∧ w = kindByte c ++ argByte c := by
  rw [commandWord_eq_append_iff]
  constructor
  · intro h
    simp only [decode16] at h
    split_ifs at h with hopen hstop hclose hset <;> obtain rfl := Option.some.inj h
    · exact ⟨rfl, hopen⟩
    · exact ⟨rfl, hstop⟩
    · exact ⟨rfl, hclose⟩
    · exact ⟨decide_eq_true hset.2, hset.1, rfl⟩
  · rintro ⟨hwf, hkind, harg⟩
    cases c with
    | setPosition t => simp [decode16, hkind, harg, kindByte, argByte, of_decide_eq_true hwf]
    | _ => simp [decode16, hkind, harg, kindByte, argByte]

/-- `decode16` inverts the encoder on command words. -/
theorem decode16_eq_some_iff (w : CommandWord) (c : Command) :
    decode16 w = some c ↔ c.wf = true ∧ .command w = encode c.toInstr := by
  rw [decode16_eq_some_iff_append, encode_toInstr, CodeWord.command.injEq]

/-- The value of a command word from its two bytes. -/
theorem toNat_append_byte (kind arg : Byte) :
    (kind ++ arg : CommandWord).toNat = 256 * kind.toNat + arg.toNat := by
  rw [BitVec.toNat_append, ← Nat.shiftLeft_add_eq_or_of_lt arg.isLt, Nat.shiftLeft_eq, Nat.mul_comm]

/-- The valid command words as numbers: one for each command without an operand, and one for each target
(30_encoding.md R75). -/
def validWordNumbers : Finset Nat := {0x0100, 0x0200, 0x0400} ∪ Finset.Icc 0x0800 0x0864

theorem mem_validWordNumbers (n : Nat) :
    n ∈ validWordNumbers ↔ n = 0x0100 ∨ n = 0x0200 ∨ n = 0x0400 ∨ (0x0800 ≤ n ∧ n ≤ 0x0864) := by
  simp [validWordNumbers]

theorem card_validWordNumbers : validWordNumbers.card = 104 := by decide

/-- The word of a well-formed command is one of the valid numbers. -/
theorem toNat_mem_validWordNumbers {c : Command} (h : c.wf = true) :
    (kindByte c ++ argByte c : CommandWord).toNat ∈ validWordNumbers := by
  rw [mem_validWordNumbers, toNat_append_byte]
  cases c with
  | setPosition t =>
    have ht : t.toNat ≤ 100 := of_decide_eq_true h
    simp only [kindByte, argByte, BitVec.toNat_ofNat]
    omega
  | _ => decide

/-- Each valid number is the word of a well-formed command. -/
theorem exists_command_of_mem_validWordNumbers {w : CommandWord} (h : w.toNat ∈ validWordNumbers) :
    ∃ c : Command, c.wf = true ∧ w = kindByte c ++ argByte c := by
  rcases (mem_validWordNumbers _).mp h with h | h | h | ⟨hlo, hhi⟩
  · exact ⟨.openCover, rfl, BitVec.eq_of_toNat_eq h⟩
  · exact ⟨.stopCover, rfl, BitVec.eq_of_toNat_eq h⟩
  · exact ⟨.closeCover, rfl, BitVec.eq_of_toNat_eq h⟩
  · have ht : (w.extractLsb' 0 8).toNat = w.toNat - 0x0800 := by
      rw [BitVec.extractLsb'_toNat]
      omega
    refine ⟨.setPosition (w.extractLsb' 0 8), decide_eq_true (by omega), BitVec.eq_of_toNat_eq ?_⟩
    rw [toNat_append_byte, argByte, ht, kindByte, BitVec.toNat_ofNat]
    omega

/-- A word is valid exactly when its number is listed. -/
theorem decode16_isSome_iff (w : CommandWord) : (decode16 w).isSome = true ↔ w.toNat ∈ validWordNumbers := by
  simp only [Option.isSome_iff_exists, decode16_eq_some_iff_append]
  constructor
  · rintro ⟨c, hwf, rfl⟩
    exact toNat_mem_validWordNumbers hwf
  · exact exists_command_of_mem_validWordNumbers

/-- 104 of the 65536 words are valid. -/
theorem length_validWords :
    ((List.range 65536).filter fun n => (decode16 (BitVec.ofNat 16 n)).isSome).length = 104 := by
  have hset : ((List.range 65536).filter fun n => (decode16 (BitVec.ofNat 16 n)).isSome).toFinset =
      validWordNumbers := by
    ext n
    simp only [List.mem_toFinset, List.mem_filter, List.mem_range, decode16_isSome_iff, BitVec.toNat_ofNat,
      mem_validWordNumbers]
    omega
  rw [← card_validWordNumbers, ← hset, List.toFinset_card_of_nodup (List.nodup_range.filter _)]

/-- Where a partial function answers on `v` of a list's `n` elements, it does not on the other `n - v`. The lengths are
variables here: over a list as long as that of all words, the kernel would compute the sum of the two lengths. -/
theorem length_filter_isNone {α β : Type} {f : α → Option β} {l : List α} {n v : Nat} (hlength : l.length = n)
    (hsome : (l.filter fun x => (f x).isSome).length = v) : (l.filter fun x => (f x).isNone).length = n - v := by
  have hsplit := l.length_eq_length_filter_add fun x => (f x).isSome
  simp only [Option.not_isSome] at hsplit
  omega

/-- The other 65432 words are invalid. -/
theorem length_invalidWords :
    ((List.range 65536).filter fun n => (decode16 (BitVec.ofNat 16 n)).isNone).length = 65432 :=
  length_filter_isNone List.length_range length_validWords

/-- Settles O2: the first four clauses are the inverse of the encoder at each command, the two counts are those of the
listed numbers. -/
theorem commandWordDecoding : Obligations.CommandWordDecoding := by
  refine ⟨fun w => ?opening, fun w => ?stopping, fun w => ?closing, fun w t => ?setting, length_validWords,
    length_invalidWords⟩
  case opening => simp [decode16_eq_some_iff, Command.wf, Command.toInstr, encode]
  case stopping => simp [decode16_eq_some_iff, Command.wf, Command.toInstr, encode]
  case closing => simp [decode16_eq_some_iff, Command.wf, Command.toInstr, encode]
  case setting => simp [decode16_eq_some_iff, Command.wf, Command.toInstr, encode, and_comm]

/-! ### Text commands -/

/-- The ASCII byte of a decimal digit (30_encoding.md R72). -/
def digitByte (d : Fin 10) : Byte := BitVec.ofNat 8 (0x30 + d.val)

/-- The number that a list of digits spells, most significant first. -/
def digitsValue (ds : List (Fin 10)) : Nat := Nat.ofDigits 10 (ds.reverse.map Fin.val)

theorem digitByte_toNat (d : Fin 10) : (digitByte d).toNat = 0x30 + d.val := by
  rw [digitByte, BitVec.toNat_ofNat]
  omega

/-- One more digit at the front. -/
theorem digitsValue_cons (d : Fin 10) (ds : List (Fin 10)) :
    digitsValue (d :: ds) = 10 ^ ds.length * d.val + digitsValue ds := by
  simp [digitsValue, Nat.ofDigits_append, Nat.add_comm]

/-- A byte has a digit value exactly when it is the ASCII form of that digit. -/
theorem digitValue_eq_some_iff (b : Byte) (n : Nat) :
    digitValue b = some n ↔ ∃ d : Fin 10, b = digitByte d ∧ n = d.val := by
  unfold digitValue
  constructor
  · intro h
    split_ifs at h with hb
    obtain rfl := Option.some.inj h
    exact ⟨⟨b.toNat - 0x30, by omega⟩, BitVec.eq_of_toNat_eq (by rw [digitByte_toNat]; dsimp only; omega), rfl⟩
  · rintro ⟨d, rfl, rfl⟩
    rw [digitByte_toNat, if_pos (by omega), Nat.add_sub_cancel_left]

/-- `decimalValue` reads exactly the strings of ASCII digits, each as the number it spells. -/
theorem decimalValue_eq_some_iff (payload : List Byte) (acc n : Nat) :
    decimalValue acc payload = some n ↔
      ∃ ds : List (Fin 10), payload = ds.map digitByte ∧ n = 10 ^ ds.length * acc + digitsValue ds := by
  induction payload generalizing acc with
  | nil =>
    constructor
    · intro h
      exact ⟨[], rfl, by simpa [decimalValue, digitsValue] using h.symm⟩
    · rintro ⟨ds, hp, rfl⟩
      obtain rfl := List.map_eq_nil_iff.mp hp.symm
      simp [decimalValue, digitsValue]
  | cons b bs ih =>
    constructor
    · intro h
      unfold decimalValue at h
      split at h
      · rename_i v hv
        obtain ⟨d, rfl, rfl⟩ := (digitValue_eq_some_iff b v).mp hv
        obtain ⟨ds, rfl, rfl⟩ := (ih _).mp h
        exact ⟨d :: ds, rfl, by rw [digitsValue_cons, List.length_cons]; ring⟩
      · cases h
    · rintro ⟨ds, hp, rfl⟩
      obtain ⟨d, ds, rfl, rfl, rfl⟩ := List.map_eq_cons_iff.mp hp.symm
      have hd : digitValue (digitByte d) = some d.val := (digitValue_eq_some_iff _ _).mpr ⟨d, rfl, rfl⟩
      simp only [decimalValue, hd]
      exact (ih _).mpr ⟨ds, rfl, by rw [digitsValue_cons, List.length_cons]; ring⟩

/-- The payloads of the topic `set_position` (30_encoding.md R72). -/
theorem decodeTarget_eq_some_iff (payload : List Byte) (c : Command) :
    decodeTarget payload = some c ↔
      ∃ ds : List (Fin 10), 1 ≤ ds.length ∧ ds.length ≤ 3 ∧ payload = ds.map digitByte ∧
        digitsValue ds ≤ 100 ∧ c = .setPosition (BitVec.ofNat 8 (digitsValue ds)) := by
  unfold decodeTarget
  constructor
  · intro h
    split_ifs at h with hlen
    split at h
    · rename_i n hn
      obtain ⟨ds, rfl, rfl⟩ := (decimalValue_eq_some_iff _ _ _).mp hn
      split_ifs at h with hle
      rw [List.length_map] at hlen
      rw [Nat.mul_zero, Nat.zero_add] at hle h
      exact ⟨ds, hlen.1, hlen.2, rfl, hle, (Option.some.inj h).symm⟩
    · cases h
  · rintro ⟨ds, hlo, hhi, rfl, hle, rfl⟩
    have hv : decimalValue 0 (ds.map digitByte) = some (digitsValue ds) :=
      (decimalValue_eq_some_iff _ _ _).mpr ⟨ds, rfl, by simp⟩
    simp [hv, hlo, hhi, hle]

/-- The payloads of the topic `set` (30_encoding.md R72). -/
theorem decodeText_set_eq_some_iff (payload : List Byte) (c : Command) :
    decodeText topicSet payload = some c ↔
      (payload = payloadOpen ∧ c = .openCover) ∨ (payload = payloadClose ∧ c = .closeCover) ∨
        (payload = payloadStop ∧ c = .stopCover) := by
  have hstop : payloadStop ≠ payloadOpen := by decide
  have hclose : payloadClose ≠ payloadOpen := by decide
  have hclose' : payloadClose ≠ payloadStop := by decide
  simp only [decodeText, if_true]
  constructor
  · intro h
    split_ifs at h with hO hS hC <;> obtain rfl := Option.some.inj h
    · exact .inl ⟨hO, rfl⟩
    · exact .inr (.inr ⟨hS, rfl⟩)
    · exact .inr (.inl ⟨hC, rfl⟩)
  · rintro (⟨rfl, rfl⟩ | ⟨rfl, rfl⟩ | ⟨rfl, rfl⟩) <;> simp [hstop, hclose, hclose']

theorem topicSetPosition_ne_topicSet : topicSetPosition ≠ topicSet := by decide

/-- On the topic `set_position` a text command is its target. -/
theorem decodeText_setPosition (payload : List Byte) : decodeText topicSetPosition payload = decodeTarget payload := by
  simp [decodeText, topicSetPosition_ne_topicSet]

/-- Settles O3: the two topics are distinct, each has its payloads, and no other topic has any. -/
theorem textGrammar : Obligations.TextGrammar := by
  intro topic payload c
  by_cases hset : topic = topicSet
  · subst hset
    simp [decodeText_set_eq_some_iff, topicSetPosition_ne_topicSet.symm]
  by_cases hpos : topic = topicSetPosition
  · subst hpos
    rw [decodeText_setPosition, decodeTarget_eq_some_iff]
    simp only [hset, false_and, false_or, true_and]
    rfl
  · simp [decodeText, hset, hpos]

/-! ### Deliveries -/

/-- A listed delivery that is possible is the next step, in every phase, whatever it decodes to. -/
theorem step_deliver {s : State} {raw : RawCommand} {es : List EnvEvent} (hroom : hasRoom s = true)
    (henv : s.env = .deliver raw :: es) : step s = .next (deliverCommand raw (setEnv es s)) := by
  simp [step, nextTurn, henv, hroom, react]

/-- Settles O40: an invalid delivery is the next step, and admission only reports it. -/
theorem invalidDeliveryReported : Obligations.InvalidDeliveryReported := by
  intro s raw es hroom henv hraw
  have hreport : deliverCommand raw (setEnv es s) = report (.invalidCommandPayload (.raw raw)) (setEnv es s) := by
    simp [deliverCommand, hraw]
  rw [step_deliver ((hasRoom_iff s).mpr hroom) henv, hreport]
  rfl

end Sys2Proof.Proofs

/-! PROOFS. Family 40_frame_encoder.md: the domain check (R102). -/

namespace Sys2Proof.Proofs

open Sys2Proof.Machine

/-- The keystream index as a word: the low byte of the code (40_frame_encoder.md R103). -/
theorem toNat_kiIndex (code : U32) : (code &&& 0xFF#32).toNat = code.toNat &&& 0xFF := BitVec.toNat_and ..

/-- Where both tables answer at the code's indices, `ENCODE` builds the frame from these two entries. -/
theorem encodeFrame_of_read {cfg : Config} {code : U32} {enc : BitVec 16} {ki : Byte}
    (henc : cfg.encodeTable.read code.toNat = some enc) (hki : cfg.kiTable.read (code &&& 0xFF#32).toNat = some ki)
    (serial : U32) (button rep : Nat) :
    encodeFrame cfg serial code button rep = .frame (frameOf serial enc (keystreamByte ki enc) button rep) := by
  rw [toNat_kiIndex] at hki
  simp only [encodeFrame, henc, hki]

/-- Where an index is outside its table, `ENCODE` answers the error, whatever the other table answers. -/
theorem encodeFrame_of_outside {cfg : Config} {code : U32}
    (h : cfg.encodeTable.size ≤ code.toNat ∨ cfg.kiTable.size ≤ (code &&& 0xFF#32).toNat)
    (serial : U32) (button rep : Nat) : encodeFrame cfg serial code button rep = .invalidCodeIndex code := by
  rw [toNat_kiIndex] at h
  rcases h with henc | hki
  · simp only [encodeFrame, read_of_ge _ henc]
  · rw [encodeFrame, read_of_ge _ hki]
    cases cfg.encodeTable.read code.toNat <;> rfl

/-- Settles O6: inside both domains both reads answer and `ENCODE` gives a frame, so the error comes only from an
index outside. -/
theorem invalidCodeIndexExactly : Obligations.InvalidCodeIndexExactly := by
  intro cfg serial code button rep
  have inside (henc : code.toNat < cfg.encodeTable.size) (hki : (code &&& 0xFF#32).toNat < cfg.kiTable.size) :=
    encodeFrame_of_read (read_of_lt _ henc) (read_of_lt _ hki) serial button rep
  refine ⟨⟨fun herror => ?_, fun h => encodeFrame_of_outside h serial button rep⟩,
    fun henc hki => ⟨_, _, read_of_lt _ henc, read_of_lt _ hki, inside henc hki⟩⟩
  by_contra! hdomain
  obtain ⟨henc, hki⟩ := hdomain
  cases (inside henc hki).symm.trans herror

end Sys2Proof.Proofs

/-! PROOFS. Family 41_pulse_serializer.md: the index layout of a pulse train (R133) and the properties of SERIALIZE
(R134). -/

namespace Sys2Proof.Proofs

open Sys2Proof.Machine

/-! ### The symbols of the bits -/

/-- Both symbols of a bit are a HIGH and a LOW, of widths that the bit selects (30_encoding.md R81). -/
theorem bitPulses_eq (b : Bool) :
    bitPulses b = [⟨.high, if b then 500 else 1000⟩, ⟨.low, if b then 1000 else 500⟩] := by
  cases b <;> rfl

@[simp] theorem length_bitPulses (b : Bool) : (bitPulses b).length = 2 := by
  simp [bitPulses_eq]

/-- Either pulse of a symbol tells the bit. -/
theorem getElem?_bitPulses_inj {r : Nat} (hr : r < 2) (a b : Bool) :
    (bitPulses a)[r]? = (bitPulses b)[r]? ↔ a = b := by
  interval_cases r
  · revert a b; decide
  · revert a b; decide

@[simp] theorem length_bitsPulses (f : Frame) (n : Nat) : (bitsPulses f n).length = 2 * n := by
  induction n with
  | zero => rfl
  | succ n ih =>
    rw [bitsPulses, List.length_append, length_bitPulses, ih]
    omega

/-- Symbol `k` of the bits below `n` is that of bit `n - 1 - k`: most significant first (41_pulse_serializer.md
R131). -/
theorem getElem?_bitsPulses (f : Frame) {n k r : Nat} (hk : k < n) (hr : r < 2) :
    (bitsPulses f n)[2 * k + r]? = (bitPulses (f.getLsbD (n - 1 - k)))[r]? := by
  induction n generalizing k with
  | zero => cases hk
  | succ n ih =>
    rw [bitsPulses]
    cases k with
    | zero => rw [List.getElem?_append_left (by simpa using hr), Nat.mul_zero, Nat.zero_add]; rfl
    | succ k =>
      rw [List.getElem?_append_right (by simp only [length_bitPulses]; omega), length_bitPulses,
        show 2 * (k + 1) + r - 2 = 2 * k + r by omega, ih (Nat.lt_of_succ_lt_succ hk),
        show n + 1 - 1 - (k + 1) = n - 1 - k by omega]

/-! ### The parts of a pulse train -/

/-- What follows the bits: the trailing sync and the gap (41_pulse_serializer.md R132, steps 4 and 5). -/
def trailerPulses : List Pulse := syncPulses ++ [⟨.low, gapMicros⟩]

/-- A pulse train is the leading sync, the 104 pulses of the bits and the trailer. -/
theorem serialize_eq (f : Frame) : serialize f = syncPulses ++ (bitsPulses f 52 ++ trailerPulses) := by
  simp only [serialize, trailerPulses, List.append_assoc]

theorem length_serialize (f : Frame) : (serialize f).length = 109 := by
  rw [serialize_eq, List.length_append, List.length_append, length_bitsPulses]
  rfl

theorem take_serialize (f : Frame) : (serialize f).take 2 = syncPulses := by
  rw [serialize_eq]
  exact List.take_left' rfl

theorem drop_serialize (f : Frame) : (serialize f).drop 106 = trailerPulses := by
  rw [serialize_eq, ← List.append_assoc]
  exact List.drop_left' (by rw [List.length_append, length_bitsPulses]; rfl)

theorem getElem?_serialize_leader (f : Frame) {i : Nat} (hi : i < 2) : (serialize f)[i]? = syncPulses[i]? := by
  rw [← take_serialize f, List.getElem?_take_of_lt hi]

/-- Pulses `2 + 2k` and `3 + 2k` are the symbol of bit `51 - k` (41_pulse_serializer.md R133). -/
theorem getElem?_serialize_bit (f : Frame) {k r : Nat} (hk : k ≤ 51) (hr : r < 2) :
    (serialize f)[2 + (2 * k + r)]? = (bitPulses (f.getLsbD (51 - k)))[r]? := by
  rw [serialize_eq, List.getElem?_append_right (Nat.le_add_right 2 _),
    show 2 + (2 * k + r) - syncPulses.length = 2 * k + r from Nat.add_sub_cancel_left ..,
    List.getElem?_append_left (by rw [length_bitsPulses]; omega), getElem?_bitsPulses f (Nat.lt_succ_of_le hk) hr]

theorem getElem?_serialize_trailer (f : Frame) (r : Nat) : (serialize f)[106 + r]? = trailerPulses[r]? := by
  rw [← drop_serialize f, List.getElem?_drop]

/-- Settles O9: the leading sync, each bit's symbol and the trailer, each at its indices. -/
theorem trainLayout : Obligations.TrainLayout := by
  intro f
  refine ⟨length_serialize f, getElem?_serialize_leader f Nat.zero_lt_two,
    getElem?_serialize_leader f Nat.one_lt_two, fun k hk => ⟨?high, ?low⟩,
    getElem?_serialize_trailer f 0, getElem?_serialize_trailer f 1, getElem?_serialize_trailer f 2⟩
  case high =>
    have hpulse := getElem?_serialize_bit f hk Nat.zero_lt_two
    rwa [bitPulses_eq] at hpulse
  case low =>
    have hpulse := getElem?_serialize_bit f hk Nat.one_lt_two
    rwa [bitPulses_eq, show 2 + (2 * k + 1) = 3 + 2 * k by omega] at hpulse

/-! ### One flipped bit -/

/-- Flipping bit `j` of a frame changes bit `j` and no other. -/
theorem getLsbD_flipBit_eq_iff (f : Frame) {j : Nat} (hj : j ≤ 51) (m : Nat) :
    (f ^^^ (1#52 <<< j)).getLsbD m = f.getLsbD m ↔ j ≠ m := by
  rw [← BitVec.twoPow_eq, BitVec.getLsbD_xor, BitVec.getLsbD_twoPow]
  cases f.getLsbD m <;> simp [Nat.lt_succ_of_le hj]

/-- Every index of a pulse train is in its leading sync, in one symbol of the bits, or in its trailer. -/
theorem trainIndex_cases (i : Nat) :
    i < 2 ∨ (∃ k r, k ≤ 51 ∧ r < 2 ∧ i = 2 + (2 * k + r)) ∨ ∃ r, i = 106 + r := by
  rcases lt_or_ge i 2 with hleader | hleader
  · exact .inl hleader
  rcases lt_or_ge i 106 with hbits | htrailer
  · exact .inr (.inl ⟨(i - 2) / 2, (i - 2) % 2, by omega, by omega, by omega⟩)
  · exact .inr (.inr ⟨i - 106, by omega⟩)

/-- Flipping bit `j` changes the two pulses of that bit's symbol and no other (41_pulse_serializer.md R134 (c)). -/
theorem getElem?_serialize_flipBit_ne_iff (f : Frame) {j : Nat} (hj : j ≤ 51) (i : Nat) :
    (serialize (f ^^^ (1#52 <<< j)))[i]? ≠ (serialize f)[i]? ↔ i = 2 + 2 * (51 - j) ∨ i = 3 + 2 * (51 - j) := by
  rcases trainIndex_cases i with hleader | ⟨k, r, hk, hr, rfl⟩ | ⟨r, rfl⟩
  · rw [getElem?_serialize_leader _ hleader, getElem?_serialize_leader _ hleader]
    simp only [ne_eq, not_true_eq_false, false_iff]
    omega
  · rw [getElem?_serialize_bit _ hk hr, getElem?_serialize_bit _ hk hr, Ne, getElem?_bitPulses_inj hr,
      getLsbD_flipBit_eq_iff f hj]
    omega
  · rw [getElem?_serialize_trailer, getElem?_serialize_trailer]
    simp only [ne_eq, not_true_eq_false, false_iff]
    omega

/-- Settles O10: (a) and (b) by the parts of a pulse train, (c) by the part that the index is in, (d) as `SERIALIZE`
is a function of the frame alone. -/
theorem trainProperties : Obligations.TrainProperties := by
  refine ⟨length_serialize, fun f => ⟨take_serialize f, ?trailing⟩,
    fun f j i hj _ => getElem?_serialize_flipBit_ne_iff f hj i, fun _ _ => congrArg serialize⟩
  case trailing =>
    rw [drop_serialize]
    rfl

end Sys2Proof.Proofs

/-! PROOFS. Family 42_rolling_code_store.md: LOAD at startup (R153). -/

namespace Sys2Proof.Proofs

open Sys2Proof.Machine

/-! ### The first part of startup -/

/-- What startup keeps to from its read of the Storage until its first move: `CODE` is chosen by what was read, the
Storage and the flags are as before (42_rolling_code_store.md R153). -/
structure Loaded (read : Option U32) (s t : State) : Prop where
  code : t.code = read.getD s.cfg.startCode
  stored : t.stored = s.stored
  known : t.known = s.known
  moving : t.moving = s.moving

theorem load_loaded (read : Option U32) (s : State) : Loaded read s (load read s) := ⟨rfl, rfl, rfl, rfl⟩

theorem Loaded.enterPhase_right {read : Option U32} {s t : State} (h : Loaded read s t) (p : Phase) :
    Loaded read s (enterPhase p t) := ⟨h.code, h.stored, h.known, h.moving⟩

theorem Loaded.setEnv_right {read : Option U32} {s t : State} (h : Loaded read s t) (es : List EnvEvent) :
    Loaded read s (setEnv es t) := ⟨h.code, h.stored, h.known, h.moving⟩

theorem Loaded.of_setEnv_left {read : Option U32} {s t : State} {es : List EnvEvent}
    (h : Loaded read (setEnv es s) t) : Loaded read s t := ⟨h.code, h.stored, h.known, h.moving⟩

/-- A reference move whose code is out of domain ends without a write of a flag (70_reset_and_hazards.md R253). -/
theorem Loaded.endReference_invalid_right {read : Option U32} {s t : State} (h : Loaded read s t) (c : U32) :
    Loaded read s (endReference (.invalidCodeIndex c) t) := ⟨h.code, h.stored, h.known, h.moving⟩

/-- Startup up to its first call waits for the Driver, or for the guard where the code it loaded is out of domain. -/
theorem beginStartup_cases (read : Option U32) (s : State) :
    (∃ b f, beginStartup read s = enterPhase (.tx .startupRef b 1 f) (load read s)) ∨
      ∃ c, beginStartup read s = endReference (.invalidCodeIndex c) (load read s) := by
  rcases attempt_cases .startupRef (load read s).cfg.refButton.button 1 (returnTo .startupRef) (load read s) with
    ⟨f, _, htx⟩ | ⟨_, hinvalid⟩
  · exact .inl ⟨_, f, htx⟩
  · exact .inr ⟨_, hinvalid⟩

theorem beginStartup_loaded (read : Option U32) (s : State) : Loaded read s (beginStartup read s) := by
  rcases beginStartup_cases read s with ⟨b, f, htx⟩ | ⟨c, hguard⟩
  · rw [htx]
    exact (load_loaded read s).enterPhase_right _
  · rw [hguard]
    exact (load_loaded read s).endReference_invalid_right c

/-- Startup never begins with a wait that a queued command could cancel. -/
theorem beginStartup_phase_ne_wait (read : Option U32) (s : State) (target : Byte) (d : Rat) :
    (beginStartup read s).phase ≠ .wait target d := by
  rcases beginStartup_cases read s with ⟨b, f, htx⟩ | ⟨c, hguard⟩
  · simp [htx]
  · simp [hguard, endReference]

/-- Where no external move follows, startup rests at its first call. -/
theorem settle_nil_beginStartup (read : Option U32) (s : State) :
    settle [] (beginStartup read s) = setEnv [] (beginStartup read s) :=
  cancelIfQueued_of_phase (beginStartup_phase_ne_wait read s)

/-! ### The step at `RESET` -/

/-- With no external move to come the step at `RESET` loads what the Storage holds. -/
theorem step_reset_loaded {s : State} {read : Option U32} (hphase : s.phase = .reset) (henv : s.env = [])
    (hstored : s.stored = read) : ∃ t, step s = .next t ∧ Loaded read s t := by
  refine ⟨setEnv [] (beginStartup read s), ?_, (beginStartup_loaded read s).setEnv_right []⟩
  simp [step, nextTurn, ownTurn, hphase, henv, hstored, settle_nil_beginStartup]

/-- Where the Storage is unreadable the step at `RESET` loads nothing it holds. -/
theorem step_unreadable_loaded {s : State} (hphase : s.phase = .reset) (henv : s.env = [.unreadable]) :
    ∃ t, step s = .next t ∧ Loaded none s t := by
  refine ⟨setEnv [] (beginStartup none (setEnv [] s)), ?_,
    (beginStartup_loaded none (setEnv [] s)).of_setEnv_left.setEnv_right []⟩
  simp [step, nextTurn, accepts, hphase, henv, settle_nil_beginStartup]

/-- Settles O13: the step at `RESET` loads what it reads, in each of the three reads of the Storage: a value,
nothing stored, unreadable. -/
theorem loadChoosesCode : Obligations.LoadChoosesCode := by
  intro s hphase
  refine ⟨fun v henv hstored => ?stored, fun henv hstored => ?nothingStored, fun henv => ?unreadable⟩
  case stored =>
    obtain ⟨t, hstep, hload⟩ := step_reset_loaded hphase henv hstored
    exact ⟨t, hstep, hload.code, hload.stored.trans hstored, hload.known, hload.moving⟩
  case nothingStored =>
    obtain ⟨t, hstep, hload⟩ := step_reset_loaded hphase henv hstored
    exact ⟨t, hstep, hload.code, hload.stored.trans hstored, hload.known, hload.moving⟩
  case unreadable =>
    obtain ⟨t, hstep, hload⟩ := step_unreadable_loaded hphase henv
    exact ⟨t, hstep, hload.code, hload.stored, hload.known, hload.moving⟩

end Sys2Proof.Proofs

/-! PROOFS. Family 43_cover_controller.md: a refused SET_POSITION (R177) and Reconnect (R185). -/

namespace Sys2Proof.Proofs

open Sys2Proof.Machine

/-! ### A refused SET_POSITION -/

/-- With no external move to come, an idle Controller takes the command at the head of `CMDQ` and runs it
(43_cover_controller.md R187). -/
theorem step_idle_cons {s : State} {c : Command} {q : List Command} (hphase : s.phase = .idle) (henv : s.env = [])
    (hcmdq : s.cmdq = c :: q) : step s = exec c.toInstr (setQueue q s) := by
  simp [step, nextTurn, ownTurn, hphase, henv, hcmdq]

/-- `SET_POSITION` is its rule up to the first call, run on over the external moves. -/
theorem exec_setPosition (t : Byte) (s : State) :
    exec (.setPosition t) s = .next (settle s.env (beginSetPosition t s)) := rfl

/-- With a travel time of 0 the rule of `SET_POSITION` ends before its first call, with the refusal reported. -/
theorem beginSetPosition_of_tTotal_eq_zero {s : State} (h : s.cfg.tTotal = 0) (t : Byte) :
    beginSetPosition t s = enterPhase .idle (report (.invalidCommandPayload (.refused (.setPosition t))) s) :=
  if_pos h

/-- A refused `SET_POSITION` leaves the Controller idle, so no external move is taken and nothing else changes. -/
theorem exec_setPosition_of_tTotal_eq_zero {s : State} (h : s.cfg.tTotal = 0) (t : Byte) :
    exec (.setPosition t) s =
      .next (enterPhase .idle (report (.invalidCommandPayload (.refused (.setPosition t))) s)) := by
  rw [exec_setPosition, beginSetPosition_of_tTotal_eq_zero h, settle_of_resting rfl]
  rfl

/-- Settles O26: the refusal is one report, and the step that takes the command from `CMDQ` runs it on the queue's
tail, in the phase that it leaves. -/
theorem setPositionRefused : Obligations.SetPositionRefused := by
  intro s t q htTotal
  refine ⟨exec_setPosition_of_tTotal_eq_zero htTotal t, fun hphase henv hcmdq => ?_⟩
  have htail : (setQueue q s).cfg.tTotal = 0 := htTotal
  rw [step_idle_cons hphase henv hcmdq, Command.toInstr, exec_setPosition_of_tTotal_eq_zero htail, ← hphase]
  rfl

/-! ### Reconnect -/

/-- A listed `Reconnect` is the next step, in every phase, and only publishes (43_cover_controller.md R185). -/
theorem step_reconnect {s : State} {es : List EnvEvent} (henv : s.env = .reconnect :: es) :
    step s = .next (publish (setEnv es s)) := by
  simp [step, nextTurn, henv, accepts, react]

/-- Settles O43: the step publishes, and the snapshot is the one that 30_encoding.md R85 spells out. -/
theorem reconnectPublishes : Obligations.ReconnectPublishes := by
  intro s es henv
  rw [step_reconnect henv]
  rfl

end Sys2Proof.Proofs

/-! PROOFS. Family 30_encoding.md and 40_frame_encoder.md: the decoder against the encoder, and the fields of a frame
(R78, R79). -/

namespace Sys2Proof.Proofs

open Sys2Proof.Machine

/-! ### Frames as words -/

/-- A frame is made of these fields exactly when its bits read as them (30_encoding.md R78). -/
theorem frame_eq_frameWord_iff (f : Frame) (kind r sn : BitVec 4) (e : BitVec 16) (k : BitVec 24) :
    f = frameWord kind r sn e k ↔
      f.extractLsb' 48 4 = kind ∧ f.extractLsb' 44 4 = r ∧ f.extractLsb' 40 4 = sn ∧ f.extractLsb' 24 16 = e ∧
        f.extractLsb' 0 24 = k := by
  constructor
  · rintro rfl
    refine ⟨?_, ?_, ?_, ?_, ?_⟩ <;>
    · apply BitVec.eq_of_getLsbD_eq
      intro i hi
      simp only [frameWord, BitVec.getLsbD_extractLsb', BitVec.getLsbD_append, hi, decide_true, Bool.true_and]
      interval_cases i <;> rfl
  · rintro ⟨rfl, rfl, rfl, rfl, rfl⟩
    apply BitVec.eq_of_getLsbD_eq
    intro i hi
    simp only [frameWord, BitVec.getLsbD_extractLsb', BitVec.getLsbD_append]
    interval_cases i <;> rfl

/-- The decoder reads a frame as an instruction exactly when that is the instruction of a button and the frame its
word. -/
theorem decodeFrame_eq_some_iff (f : Frame) (i : Instr) :
    decodeFrame f = some i ↔
      ∃ b r sn e k, i = frameInstr b r sn e k ∧ f = frameWord (buttonNibble b) r sn e k := by
  constructor
  · intro h
    simp only [decodeFrame] at h
    split_ifs at h with hopen hstop hclose <;> obtain rfl := Option.some.inj h
    · exact ⟨.btnOpen, _, _, _, _, rfl, (frame_eq_frameWord_iff ..).mpr ⟨hopen, rfl, rfl, rfl, rfl⟩⟩
    · exact ⟨.btnStop, _, _, _, _, rfl, (frame_eq_frameWord_iff ..).mpr ⟨hstop, rfl, rfl, rfl, rfl⟩⟩
    · exact ⟨.btnClose, _, _, _, _, rfl, (frame_eq_frameWord_iff ..).mpr ⟨hclose, rfl, rfl, rfl, rfl⟩⟩
  · rintro ⟨b, r, sn, e, k, rfl, hf⟩
    obtain ⟨hkind, hr, hsn, he, hk⟩ := (frame_eq_frameWord_iff ..).mp hf
    cases b <;> simp [decodeFrame, hkind, hr, hsn, he, hk, buttonNibble, frameInstr]

/-- The encoder on a frame instruction. -/
theorem encode_frameInstr (b : Button) (r sn : BitVec 4) (e : BitVec 16) (k : BitVec 24) :
    encode (frameInstr b r sn e k) = .frame (frameWord (buttonNibble b) r sn e k) := by
  cases b <;> rfl

theorem wf_frameInstr (b : Button) (r sn : BitVec 4) (e : BitVec 16) (k : BitVec 24) :
    (frameInstr b r sn e k).wf = true := by
  cases b <;> rfl

theorem wf_toInstr (c : Command) : c.toInstr.wf = c.wf := by
  cases c <;> rfl

/-- Every instruction is a command or the frame of a button. -/
theorem instr_cases (i : Instr) : (∃ c : Command, i = c.toInstr) ∨ ∃ b r sn e k, i = frameInstr b r sn e k := by
  cases i with
  | openCover => exact .inl ⟨.openCover, rfl⟩
  | stopCover => exact .inl ⟨.stopCover, rfl⟩
  | closeCover => exact .inl ⟨.closeCover, rfl⟩
  | setPosition t => exact .inl ⟨.setPosition t, rfl⟩
  | frameOpen r sn e k => exact .inr ⟨.btnOpen, r, sn, e, k, rfl⟩
  | frameStop r sn e k => exact .inr ⟨.btnStop, r, sn, e, k, rfl⟩
  | frameClose r sn e k => exact .inr ⟨.btnClose, r, sn, e, k, rfl⟩

/-- A command word is never read as a frame instruction. -/
theorem toInstr_ne_frameInstr (c : Command) (b : Button) (r sn : BitVec 4) (e : BitVec 16) (k : BitVec 24) :
    c.toInstr ≠ frameInstr b r sn e k := by
  cases c <;> cases b <;> exact Instr.noConfusion

theorem toInstr_injective : Function.Injective Command.toInstr := by
  intro c d h
  cases c <;> cases d <;> cases h <;> rfl

/-- Settles O1: on command words by `decode16` as the encoder's inverse, on frames by their fields; a word of one kind is
no encoding of an instruction of the other. -/
theorem decodeEncodeAgree : Obligations.DecodeEncodeAgree := by
  intro w i
  cases w with
  | command w =>
    rcases instr_cases i with ⟨c, rfl⟩ | ⟨b, r, sn, e, k, rfl⟩
    · simp only [decode, Option.map_eq_some_iff, toInstr_injective.eq_iff, exists_eq_right, decode16_eq_some_iff,
        wf_toInstr, eq_comm (a := encode c.toInstr)]
    · simp [decode, toInstr_ne_frameInstr, encode_frameInstr]
  | frame f =>
    rw [decode, decodeFrame_eq_some_iff]
    constructor
    · rintro ⟨b, r, sn, e, k, rfl, rfl⟩
      exact ⟨wf_frameInstr .., encode_frameInstr ..⟩
    · rintro ⟨-, hword⟩
      rcases instr_cases i with ⟨c, rfl⟩ | ⟨b, r, sn, e, k, rfl⟩
      · rw [encode_toInstr] at hword
        cases hword
      · rw [encode_frameInstr] at hword
        exact ⟨b, r, sn, e, k, rfl, (CodeWord.frame.inj hword).symm⟩

/-- Settles O4: each word is in its row or in none, by evaluation of the decoder on these ten words. -/
theorem tableWordsDecode : Obligations.TableWordsDecode := by
  unfold Obligations.TableWordsDecode
  decide

/-! ### The packing of a frame -/

/-- Whitening complements what is left after the padding nibble is shifted out (40_frame_encoder.md R106). -/
theorem whiten_eq (packed : BitVec 56) : whiten packed = ~~~(packed.extractLsb' 4 52) := by
  apply BitVec.eq_of_getLsbD_eq
  intro i hi
  have hmask : (0xFFFFFFFFFFFFF0#56).getLsbD (4 + i) = true := by interval_cases i <;> rfl
  simp [whiten, hi, hmask]

/-- The whitened buffer, field by field: the low nibble of `e0`, both nibbles of `e1`, then the bytes `e2` to `e6`
(40_frame_encoder.md R105, log 11). -/
theorem whiten_packNibbles (e0 e1 e2 e3 e4 e5 e6 : Byte) :
    whiten (packNibbles e0 e1 e2 e3 e4 e5 e6) =
      ~~~(e0.extractLsb' 0 4) ++ ~~~(e1.extractLsb' 4 4) ++ ~~~(e1.extractLsb' 0 4) ++ ~~~(e2 ++ e3) ++ ~~~e4 ++
        ~~~e5 ++ ~~~e6 := by
  rw [whiten_eq]
  apply BitVec.eq_of_getLsbD_eq
  intro i hi
  simp only [packNibbles, BitVec.getLsbD_not, BitVec.getLsbD_extractLsb', BitVec.getLsbD_append]
  interval_cases i <;> simp

/-- The serial bytes by division, as 20_memory.md R57 has them, are those of the packing. -/
theorem serialByte_eq (serial : U32) (k : Nat) :
    BitVec.ofNat 8 (serial.toNat / 256 ^ k) = serial.extractLsb' (8 * k) 8 := by
  rw [BitVec.extractLsb', Nat.shiftRight_eq_div_pow, Nat.pow_mul]

/-- The low nibble of `e0` is the button's (40_frame_encoder.md R104). -/
theorem bufferE0_low (button : Nat) : (bufferE0 button).extractLsb' 0 4 = BitVec.ofNat 4 button := by
  apply BitVec.eq_of_getLsbD_eq
  intro i hi
  have hmask : Nat.testBit 0x0F i = true := by interval_cases i <;> rfl
  simp only [bufferE0, BitVec.getLsbD_extractLsb', BitVec.getLsbD_ofNat, Nat.testBit_and, Nat.zero_add, hmask, hi,
    show i < 8 by omega, decide_true, Bool.true_and, Bool.and_true]

/-- The low nibble of `e1` is that of the serial's top byte and the keystream byte (40_frame_encoder.md R104). -/
theorem bufferE1_low (button rep : Nat) (b3 ki : Byte) :
    (bufferE1 button rep b3 ki).extractLsb' 0 4 = (b3 ^^^ ki).setWidth 4 := by
  apply BitVec.eq_of_getLsbD_eq
  intro i hi
  have hmask : (0x0F#8).getLsbD i = true := by interval_cases i <;> rfl
  simp only [bufferE1, BitVec.getLsbD_extractLsb', BitVec.getLsbD_ofNat, BitVec.getLsbD_setWidth, Nat.testBit_or,
    Nat.testBit_shiftLeft, BitVec.testBit_toNat, BitVec.getLsbD_and, Nat.zero_add, hmask, hi, show i < 8 by omega,
    show ¬4 ≤ i by omega, decide_true, decide_false, Bool.true_and, Bool.and_true, Bool.false_and, Bool.false_or]

/-- The high nibble of `e1` is that of repeat and button, complemented (40_frame_encoder.md R104). -/
theorem bufferE1_high (button rep : Nat) (b3 ki : Byte) :
    (bufferE1 button rep b3 ki).extractLsb' 4 4 = ~~~(BitVec.ofNat 4 (rep ^^^ button)) := by
  apply BitVec.eq_of_getLsbD_eq
  intro i hi
  have hmask : Nat.testBit 0x0F i = true := by interval_cases i <;> rfl
  have hhigh : (0x0F#8).getLsbD (4 + i) = false := by interval_cases i <;> rfl
  simp only [bufferE1, BitVec.getLsbD_extractLsb', BitVec.getLsbD_ofNat, BitVec.getLsbD_not, Nat.testBit_or,
    Nat.testBit_shiftLeft, Nat.testBit_xor, BitVec.testBit_toNat, BitVec.getLsbD_and, hmask, hhigh, hi,
    show 4 + i < 8 by omega, Nat.le_add_right, Nat.add_sub_cancel_left, decide_true, Bool.true_and, Bool.and_false,
    Bool.or_false, Bool.xor_true]

/-- The six steps give the frame of the field table (30_encoding.md R78). -/
theorem frameOf_eq_specFrame (cfg : Config) (code : U32) (button rep : Nat) :
    frameOf cfg.serial (lookupEntry code.toNat cfg.encodeTable.entries)
        (keystreamByte (lookupEntry (code.toNat % 256) cfg.kiTable.entries)
          (lookupEntry code.toNat cfg.encodeTable.entries)) button rep =
      specFrame cfg code button rep := by
  have hbytes (enc : BitVec 16) : enc.extractLsb' 8 8 ++ enc.extractLsb' 0 8 = enc := by
    rw [BitVec.extractLsb'_append_extractLsb'_eq_extractLsb' (by rfl)]
    exact BitVec.extractLsb'_eq_self
  have hlow (enc : BitVec 16) : enc.extractLsb' 0 8 = enc.setWidth 8 :=
    (BitVec.setWidth_eq_extractLsb' (by decide)).symm
  rw [frameOf, whiten_packNibbles, bufferE0_low, bufferE1_low, bufferE1_high, hbytes]
  simp only [specFrame, serialByte_eq, BitVec.not_not, keystreamByte, hlow]
  rfl

/-- Both reads of `ENCODE` are in their domains exactly where the code is (40_frame_encoder.md R102). -/
theorem inDomain_iff (cfg : Config) (code : U32) :
    inDomain cfg code = true ↔ code.toNat < cfg.encodeTable.size ∧ code.toNat % 256 < cfg.kiTable.size := by
  simp [inDomain]

/-- The index of the second table, as a remainder. -/
theorem toNat_kiIndex_eq_mod (code : U32) : (code &&& 0xFF#32).toNat = code.toNat % 256 :=
  (toNat_kiIndex code).trans (Nat.and_two_pow_sub_one_eq_mod _ 8)

/-- In both domains `ENCODE` answers the frame of the field table (30_encoding.md R78). -/
theorem encodeFrame_of_inDomain {cfg : Config} {code : U32} (h : inDomain cfg code = true) (serial : U32)
    (button rep : Nat) :
    encodeFrame cfg serial code button rep = .frame (specFrame { cfg with serial := serial } code button rep) := by
  obtain ⟨henc, hki⟩ := (inDomain_iff cfg code).mp h
  rw [← toNat_kiIndex_eq_mod] at hki
  rw [encodeFrame_of_read (read_of_lt _ henc) (read_of_lt _ hki), toNat_kiIndex_eq_mod]
  exact congrArg EncodeResult.frame (frameOf_eq_specFrame { cfg with serial := serial } code button rep)

/-- Outside a domain `ENCODE` answers the error (40_frame_encoder.md R102). -/
theorem encodeFrame_of_not_inDomain {cfg : Config} {code : U32} (h : inDomain cfg code = false) (serial : U32)
    (button rep : Nat) : encodeFrame cfg serial code button rep = .invalidCodeIndex code := by
  refine encodeFrame_of_outside ?_ serial button rep
  rw [toNat_kiIndex_eq_mod]
  by_contra! hinside
  exact Bool.false_ne_true (h.symm.trans ((inDomain_iff cfg code).mpr hinside))

/-- A frame that `ENCODE` answers is that of the field table, and its code is in both domains. -/
theorem encodeFrame_eq_frame_iff (cfg : Config) (serial code : U32) (button rep : Nat) (f : Frame) :
    encodeFrame cfg serial code button rep = .frame f ↔
      inDomain cfg code = true ∧ f = specFrame { cfg with serial := serial } code button rep := by
  cases h : inDomain cfg code with
  | true => simp [encodeFrame_of_inDomain h, eq_comm]
  | false => simp [encodeFrame_of_not_inDomain h]

/-- Settles O5: the packing gives the field table's frame wherever both reads answer. -/
theorem frameFields : Obligations.FrameFields :=
  fun _ serial _ button rep h => encodeFrame_of_inDomain h serial button rep

/-! ### The consequences of the field table -/

/-- The fields of a frame below its two top nibbles (30_encoding.md R78). The button and the repeat are in none of them,
and of the serial only the low 28 bits are (R79 (c), (d)). -/
def lowerFields (cfg : Config) (code : U32) : BitVec 4 × BitVec 16 × BitVec 24 :=
  let enc : BitVec 16 := lookupEntry code.toNat cfg.encodeTable.entries
  let ki : Byte := lookupEntry (code.toNat % 256) cfg.kiTable.entries ^^^ enc.setWidth 8
  (~~~(cfg.serial.extractLsb' 24 4 ^^^ ki.setWidth 4), ~~~enc,
    ~~~(cfg.serial.extractLsb' 16 8 ^^^ ki) ++ ~~~(cfg.serial.extractLsb' 8 8 ^^^ ki) ++
      ~~~(cfg.serial.extractLsb' 0 8 ^^^ ki))

/-- The last three bytes of a frame are one field of it. -/
theorem append_append_append_byte (x : BitVec 28) (a b c : Byte) :
    (x ++ a ++ b ++ c : Frame) = x ++ (a ++ b ++ c) := by
  apply BitVec.eq_of_getLsbD_eq
  intro i hi
  simp only [BitVec.getLsbD_append]
  interval_cases i <;> rfl

/-- The frame of the field table as the fields of a frame word. -/
theorem specFrame_eq_frameWord (cfg : Config) (code : U32) (button rep : Nat) :
    specFrame cfg code button rep =
      frameWord (~~~(BitVec.ofNat 4 button)) (BitVec.ofNat 4 (rep ^^^ button)) (lowerFields cfg code).1
        (lowerFields cfg code).2.1 (lowerFields cfg code).2.2 := by
  have hnibble : (cfg.serial.extractLsb' (8 * 3) 8).setWidth 4 = cfg.serial.extractLsb' 24 4 := by
    apply BitVec.eq_of_getLsbD_eq
    intro i hi
    simp [hi, show i < 8 by omega]
  simp only [specFrame, serialByte_eq, lowerFields, frameWord, BitVec.setWidth_xor, hnibble]
  exact append_append_append_byte ..

/-- The complemented code of a button is its nibble (30_encoding.md R79 (a)). -/
theorem not_code_eq_buttonNibble (b : Button) : ~~~(BitVec.ofNat 4 b.code) = buttonNibble b := by
  cases b <;> rfl

/-- A frame that `ENCODE` answers for a button is that button's row, its repeat nibble by 30_encoding.md R79 (b). -/
theorem encodeFrame_button_eq_frame {cfg : Config} {serial code : U32} {b : Button} {rep : Nat} {f : Frame}
    (h : encodeFrame cfg serial code b.code rep = .frame f) :
    ∃ sn e k, f = frameWord (buttonNibble b) (BitVec.ofNat 4 (rep ^^^ b.code)) sn e k := by
  obtain ⟨-, rfl⟩ := (encodeFrame_eq_frame_iff ..).mp h
  exact ⟨_, _, _, by rw [specFrame_eq_frameWord, not_code_eq_buttonNibble]⟩

/-- The repeat's nibble is in bits 47:44 of a frame word only. -/
theorem getLsbD_frameWord_rep (kind r r' sn : BitVec 4) (e : BitVec 16) (k : BitVec 24) {j : Nat}
    (hj : ¬(44 ≤ j ∧ j ≤ 47)) : (frameWord kind r sn e k).getLsbD j = (frameWord kind r' sn e k).getLsbD j := by
  simp only [frameWord, BitVec.getLsbD_append]
  split_ifs with hk he hsn hr
  · rfl
  · rfl
  · rfl
  · omega
  · rfl

/-- What is read below bit 28 is the same in two serials that agree there. -/
theorem extractLsb'_eq_of_setWidth_eq {serial serial' : U32} (h : serial.setWidth 28 = serial'.setWidth 28)
    (start len : Nat) (hle : start + len ≤ 28) : serial.extractLsb' start len = serial'.extractLsb' start len := by
  apply BitVec.eq_of_getLsbD_eq
  intro i hi
  have hbit := congrArg (fun x => x.getLsbD (start + i)) h
  simpa [show start + i < 28 by omega, hi] using hbit

/-- The serial's bits 31:28 are in no field (30_encoding.md R79 (d)). -/
theorem lowerFields_of_setWidth_eq (cfg : Config) {serial serial' : U32}
    (h : serial.setWidth 28 = serial'.setWidth 28) (code : U32) :
    lowerFields { cfg with serial := serial } code = lowerFields { cfg with serial := serial' } code := by
  simp only [lowerFields, extractLsb'_eq_of_setWidth_eq h 24 4 (by decide),
    extractLsb'_eq_of_setWidth_eq h 16 8 (by decide), extractLsb'_eq_of_setWidth_eq h 8 8 (by decide),
    extractLsb'_eq_of_setWidth_eq h 0 8 (by decide)]

/-- Equal frames of the field table are equal answers of `ENCODE`, since the domains depend on the code alone. -/
theorem encodeFrame_congr {cfg : Config} {serial serial' code : U32} {button button' rep rep' : Nat}
    (h : specFrame { cfg with serial := serial } code button rep =
      specFrame { cfg with serial := serial' } code button' rep') :
    encodeFrame cfg serial code button rep = encodeFrame cfg serial' code button' rep' := by
  cases hd : inDomain cfg code with
  | true => rw [encodeFrame_of_inDomain hd, encodeFrame_of_inDomain hd, h]
  | false => rw [encodeFrame_of_not_inDomain hd, encodeFrame_of_not_inDomain hd]

/-- Only the low nibbles of the button and the repeat are in a frame (30_encoding.md R79 (e)). -/
theorem specFrame_mod (cfg : Config) (code : U32) (button rep : Nat) :
    specFrame cfg code button rep = specFrame cfg code (button % 16) (rep % 16) := by
  have hmod (n : Nat) : BitVec.ofNat 4 (n % 16) = BitVec.ofNat 4 n := BitVec.eq_of_toNat_eq (by simp)
  have hxor : BitVec.ofNat 4 (rep % 16 ^^^ button % 16) = BitVec.ofNat 4 (rep ^^^ button) := by
    rw [← hmod (rep ^^^ button)]
    exact congrArg _ (Nat.xor_mod_two_pow (n := 4)).symm
  simp only [specFrame_eq_frameWord, hmod, hxor]

/-- Settles O7: (a) and (b) by the two top fields of a frame word, (c) and (d) by what the lower fields depend on, (e) as
the two top fields keep four bits. -/
theorem frameConsequences : Obligations.FrameConsequences := by
  refine ⟨fun cfg serial code b rep f h => ?nibbles, by decide, by decide, by decide,
    fun cfg serial code button rep rep' f f' h h' j hj => ?repeats,
    fun cfg serial serial' code button rep h => ?serials,
    fun cfg serial code button rep => encodeFrame_congr (specFrame_mod ..)⟩
  case nibbles =>
    obtain ⟨sn, e, k, hf⟩ := encodeFrame_button_eq_frame h
    obtain ⟨hkind, hr, -⟩ := (frame_eq_frameWord_iff ..).mp hf
    exact ⟨hkind, hr⟩
  case repeats =>
    obtain ⟨-, rfl⟩ := (encodeFrame_eq_frame_iff ..).mp h
    obtain ⟨-, rfl⟩ := (encodeFrame_eq_frame_iff ..).mp h'
    rw [specFrame_eq_frameWord, specFrame_eq_frameWord]
    exact getLsbD_frameWord_rep _ _ _ _ _ _ hj
  case serials =>
    refine encodeFrame_congr ?_
    rw [specFrame_eq_frameWord, specFrame_eq_frameWord, lowerFields_of_setWidth_eq cfg h]

/-- A frame that `ENCODE` answers for a button decodes to that button's instruction. -/
theorem decodeFrame_of_encodeFrame {cfg : Config} {serial code : U32} {b : Button} {rep : Nat} {f : Frame}
    (h : encodeFrame cfg serial code b.code rep = .frame f) :
    ∃ sn e k, decodeFrame f = some (frameInstr b (BitVec.ofNat 4 (rep ^^^ b.code)) sn e k) := by
  obtain ⟨sn, e, k, hf⟩ := encodeFrame_button_eq_frame h
  exact ⟨sn, e, k, (decodeFrame_eq_some_iff ..).mpr ⟨b, _, sn, e, k, rfl, hf⟩⟩

/-- Settles O8: the two top nibbles of the frame are those of its button's row. -/
theorem encodedFramesAreRows : Obligations.EncodedFramesAreRows := by
  intro cfg serial code b rep f h
  obtain ⟨sn, e, k, hrow⟩ := decodeFrame_of_encodeFrame h
  exact ⟨_, sn, e, k, hrow, rfl⟩

end Sys2Proof.Proofs

/-! PROOFS. Family 41_pulse_serializer.md: the pulses of a frame in order (R132), their sum (30_encoding.md R82), and the
frame that a pulse train tells. -/

namespace Sys2Proof.Proofs

open Sys2Proof.Machine

/-- The symbols of bits `n - 1` down to 0, listed by their place. -/
theorem bitsPulses_eq_flatMap (f : Frame) (n : Nat) :
    bitsPulses f n = (List.range n).flatMap fun k => bitPulses (f.getLsbD (n - 1 - k)) := by
  induction n with
  | zero => rfl
  | succ n ih =>
    rw [bitsPulses, ih, List.range_succ_eq_map, List.flatMap_cons, List.flatMap_map]
    congr 2
    funext k
    congr 2
    omega

/-- Every symbol of a bit lasts 1500 microseconds (30_encoding.md R81). -/
theorem sum_micros_bitPulses (b : Bool) : ((bitPulses b).map Pulse.micros).sum = 1500 := by
  cases b <;> rfl

theorem sum_micros_bitsPulses (f : Frame) (n : Nat) : ((bitsPulses f n).map Pulse.micros).sum = 1500 * n := by
  induction n with
  | zero => rfl
  | succ n ih =>
    rw [bitsPulses, List.map_append, List.sum_append, sum_micros_bitPulses, ih]
    omega

/-- A pulse train lasts 99000 microseconds, whatever its bits (30_encoding.md R82). -/
theorem sum_micros_serialize (f : Frame) : ((serialize f).map Pulse.micros).sum = 99000 := by
  rw [serialize_eq, List.map_append, List.map_append, List.sum_append, List.sum_append, sum_micros_bitsPulses]
  rfl

/-- Settles O11: the bits' symbols by their place, and the length and the sum part by part. -/
theorem trainDuration : Obligations.TrainDuration := by
  intro f
  refine ⟨?_, length_serialize f, sum_micros_serialize f⟩
  rw [serialize, bitsPulses_eq_flatMap]
  rfl

/-- Settles O12: each bit is told by the first pulse of its symbol. -/
theorem trainDeterminesFrame : Obligations.TrainDeterminesFrame := by
  intro f g h
  apply BitVec.eq_of_getLsbD_eq
  intro j hj
  have hk : 51 - j ≤ 51 := Nat.sub_le 51 j
  have hpulse := congrArg (fun l => l[2 + (2 * (51 - j) + 0)]?) h
  simp only [getElem?_serialize_bit _ hk Nat.zero_lt_two, getElem?_bitPulses_inj Nat.zero_lt_two] at hpulse
  rwa [show 51 - (51 - j) = j by omega] at hpulse

end Sys2Proof.Proofs

/-! PROOFS. What a move does: the parts of a rule between two bursts, the Driver's answer, and the whole list of moves of
a run, once for all invariants. -/

namespace Sys2Proof.Proofs

open Sys2Proof.Machine

/-! ### The parts of a rule that send nothing -/

/-- What a part of a rule keeps that hands no frame to the Driver and no code to the Storage: the configuration, the code
and the durable cell, the transmissions and the entries of the other two histories. -/
structure Quiet (s t : State) : Prop where
  cfg : t.cfg = s.cfg
  code : t.code = s.code
  stored : t.stored = s.stored
  txlog : t.txlog = s.txlog
  publog : s.publog <+: t.publog
  evlog : s.evlog <+: t.evlog

theorem Quiet.refl (s : State) : Quiet s s := ⟨rfl, rfl, rfl, rfl, List.prefix_rfl, List.prefix_rfl⟩

theorem Quiet.trans {s t u : State} (h : Quiet s t) (h' : Quiet t u) : Quiet s u :=
  ⟨h'.cfg.trans h.cfg, h'.code.trans h.code, h'.stored.trans h.stored, h'.txlog.trans h.txlog,
    h.publog.trans h'.publog, h.evlog.trans h'.evlog⟩

theorem quiet_setEnv (es : List EnvEvent) (s : State) : Quiet s (setEnv es s) :=
  ⟨rfl, rfl, rfl, rfl, List.prefix_rfl, List.prefix_rfl⟩

theorem quiet_setQueue (q : List Command) (s : State) : Quiet s (setQueue q s) :=
  ⟨rfl, rfl, rfl, rfl, List.prefix_rfl, List.prefix_rfl⟩

theorem quiet_setKnown (k : Bool) (s : State) : Quiet s (setKnown k s) :=
  ⟨rfl, rfl, rfl, rfl, List.prefix_rfl, List.prefix_rfl⟩

theorem quiet_setMoving (m : Bool) (s : State) : Quiet s (setMoving m s) :=
  ⟨rfl, rfl, rfl, rfl, List.prefix_rfl, List.prefix_rfl⟩

theorem quiet_setPos (p : BitVec 7) (s : State) : Quiet s (setPos p s) :=
  ⟨rfl, rfl, rfl, rfl, List.prefix_rfl, List.prefix_rfl⟩

theorem quiet_enterPhase (p : Phase) (s : State) : Quiet s (enterPhase p s) :=
  ⟨rfl, rfl, rfl, rfl, List.prefix_rfl, List.prefix_rfl⟩

theorem quiet_publish (s : State) : Quiet s (publish s) :=
  ⟨rfl, rfl, rfl, rfl, List.prefix_append _ _, List.prefix_rfl⟩

theorem quiet_report (e : LogEvent) (s : State) : Quiet s (report e s) :=
  ⟨rfl, rfl, rfl, rfl, List.prefix_rfl, List.prefix_append _ _⟩

theorem quiet_finish (c : Command) (st : Status) (s : State) : Quiet s (finish c st s) :=
  (quiet_report _ _).trans (quiet_enterPhase _ _)

theorem quiet_endMove (tr : Travel) (r : BurstResult) (s : State) : Quiet s (endMove tr r s) :=
  ⟨endMove_cfg .., endMove_code .., endMove_stored .., endMove_txlog ..,
    by rw [endMove_publog]; exact List.prefix_append _ _, by rw [endMove_evlog]⟩

/-- What a move of the Host leaves: every register but the queue, whose entries stay (43_cover_controller.md R185,
R186). -/
structure KeepsRegisters (s t : State) : Prop extends Quiet s t where
  phase : t.phase = s.phase
  pos : t.pos = s.pos
  known : t.known = s.known
  moving : t.moving = s.moving
  cmdq : s.cmdq <+: t.cmdq

theorem KeepsRegisters.trans {s t u : State} (h : KeepsRegisters s t) (h' : KeepsRegisters t u) : KeepsRegisters s u :=
  ⟨h.toQuiet.trans h'.toQuiet, h'.phase.trans h.phase, h'.pos.trans h.pos, h'.known.trans h.known,
    h'.moving.trans h.moving, h.cmdq.trans h'.cmdq⟩

theorem keepsRegisters_setEnv (es : List EnvEvent) (s : State) : KeepsRegisters s (setEnv es s) :=
  ⟨quiet_setEnv es s, rfl, rfl, rfl, rfl, List.prefix_rfl⟩

theorem keepsRegisters_publish (s : State) : KeepsRegisters s (publish s) :=
  ⟨quiet_publish s, rfl, rfl, rfl, rfl, List.prefix_rfl⟩

theorem keepsRegisters_report (e : LogEvent) (s : State) : KeepsRegisters s (report e s) :=
  ⟨quiet_report e s, rfl, rfl, rfl, rfl, List.prefix_rfl⟩

theorem keepsRegisters_enqueue (c : Command) (s : State) : KeepsRegisters s (enqueue c s) :=
  ⟨⟨rfl, rfl, rfl, rfl, List.prefix_rfl, List.prefix_rfl⟩, rfl, rfl, rfl, rfl, List.prefix_append _ _⟩

theorem keepsRegisters_deliverCommand (raw : RawCommand) (s : State) : KeepsRegisters s (deliverCommand raw s) := by
  rcases deliverCommand_cases raw s with ⟨-, hreject⟩ | ⟨c, -, ⟨-, hignore⟩ | ⟨-, hqueue⟩⟩
  · exact hreject ▸ keepsRegisters_report _ s
  · exact hignore ▸ keepsRegisters_report _ s
  · exact hqueue ▸ keepsRegisters_enqueue c s

/-- The phases that a rule reaches between two bursts, and the first repeat of the next burst. -/
def burstStart : Phase → Bool
  | .tx _ _ rep _ => decide (rep = 1)
  | .wait _ _ => true
  | .guard => true
  | .idle => true
  | .reset => false
  | .persist _ _ _ => false
  | .halted _ => false

/-- A rule ran on to its next wait, its next burst or its end. -/
structure RuleRan (s t : State) : Prop extends Quiet s t where
  phase : burstStart t.phase = true

theorem Quiet.ruleRan {s t u : State} (h : Quiet s t) (h' : RuleRan t u) : RuleRan s u :=
  ⟨h.trans h'.toQuiet, h'.phase⟩

theorem Quiet.enterPhase_ruleRan {s t : State} (h : Quiet s t) {p : Phase} (hp : burstStart p = true) :
    RuleRan s (enterPhase p t) := ⟨h.trans (quiet_enterPhase p t), hp⟩

theorem Quiet.finish_ruleRan {s t : State} (h : Quiet s t) (c : Command) (st : Status) : RuleRan s (finish c st t) :=
  ⟨h.trans (quiet_finish c st t), rfl⟩

theorem Quiet.published_ruleRan {s t : State} (h : Quiet s t) (c : Command) (st : Status) :
    RuleRan s (finish c st (publish t)) := (h.trans (quiet_publish t)).finish_ruleRan c st

/-- A burst starts with its first repeat, or its rule goes on at once with the error. -/
theorem attempt_ruleRan (ctx : Ctx) (b : Button) {k : BurstResult → State → State} {s : State}
    (hk : ∀ r, RuleRan s (k r s)) : RuleRan s (attempt ctx b 1 k s) := by
  rcases attempt_cases ctx b 1 k s with ⟨f, -, h⟩ | ⟨-, h⟩ <;> rw [h]
  · exact (Quiet.refl s).enterPhase_ruleRan rfl
  · exact hk _

theorem endReference_ruleRan (r : BurstResult) (s : State) : RuleRan s (endReference r s) :=
  ((quiet_endMove _ r s).trans (quiet_report _ _)).enterPhase_ruleRan rfl

theorem endTravel_ruleRan (tr : Travel) (c : Command) (r : BurstResult) (s : State) :
    RuleRan s (endTravel tr c r s) := (quiet_endMove tr r s).finish_ruleRan c _

theorem endStop_ruleRan (r : BurstResult) (s : State) : RuleRan s (endStop r s) :=
  (quiet_setKnown _ s).published_ruleRan _ _

theorem endFinalStop_ruleRan (t : Byte) (r : BurstResult) (s : State) : RuleRan s (endFinalStop t r s) := by
  cases r with
  | ok => exact (((quiet_setMoving false s).trans (quiet_setPos _ _)).trans (quiet_setKnown _ _)).published_ruleRan _ _
  | _ => exact ((quiet_setMoving false s).trans (quiet_setKnown _ _)).published_ruleRan _ _

theorem endDirection_ruleRan (t : Byte) (r : BurstResult) (s : State) : RuleRan s (endDirection t r s) := by
  cases r with
  | ok => exact (Quiet.refl s).enterPhase_ruleRan rfl
  | _ => exact ((quiet_setMoving false s).trans (quiet_setKnown _ _)).published_ruleRan _ _

theorem estimate_ruleRan (t : Byte) (s : State) : RuleRan s (estimate t s) := by
  unfold estimate
  split_ifs
  · exact (quiet_publish s).finish_ruleRan _ _
  · exact (quiet_setMoving true s).ruleRan (attempt_ruleRan _ _ fun r => endDirection_ruleRan t r _)

theorem endRehome_ruleRan (t : Byte) (r : BurstResult) (s : State) : RuleRan s (endRehome t r s) := by
  have hmove := quiet_endMove s.cfg.refButton r s
  cases r with
  | ok => exact hmove.ruleRan (estimate_ruleRan t _)
  | _ => exact hmove.finish_ruleRan _ _

/-- The rule that a burst returns to runs on without a transmission. -/
theorem returnTo_ruleRan (ctx : Ctx) (r : BurstResult) (s : State) : RuleRan s (returnTo ctx r s) := by
  cases ctx with
  | startupRef => exact endReference_ruleRan r s
  | cmdOpen => exact endTravel_ruleRan .toOpen .openCover r s
  | cmdClose => exact endTravel_ruleRan .toClosed .closeCover r s
  | cmdStop => exact endStop_ruleRan r s
  | spRehome t => exact endRehome_ruleRan t r s
  | spDir t => exact endDirection_ruleRan t r s
  | spStop t => exact endFinalStop_ruleRan t r s

theorem waitElapsed_ruleRan (t : Byte) (s : State) : RuleRan s (waitElapsed t s) :=
  attempt_ruleRan _ _ fun r => endFinalStop_ruleRan t r s

theorem waitCancelled_ruleRan (t : Byte) (s : State) : RuleRan s (waitCancelled t s) :=
  ((quiet_setMoving false s).trans (quiet_setKnown _ _)).published_ruleRan _ _

theorem beginSetPosition_ruleRan (t : Byte) (s : State) : RuleRan s (beginSetPosition t s) := by
  unfold beginSetPosition
  split_ifs
  · exact (quiet_report _ s).enterPhase_ruleRan rfl
  · exact estimate_ruleRan t s
  · exact attempt_ruleRan _ _ fun r => returnTo_ruleRan _ r s

theorem beginStartup_ruleRan (read : Option U32) (s : State) : RuleRan (load read s) (beginStartup read s) :=
  attempt_ruleRan _ _ fun r => returnTo_ruleRan _ r _

/-! ### Dispatch -/

/-- A command's rule up to its first call. -/
def beginCommand (c : Command) (s : State) : State :=
  match c with
  | .openCover => attempt .cmdOpen .btnOpen 1 (returnTo .cmdOpen) s
  | .stopCover => attempt .cmdStop .btnStop 1 (returnTo .cmdStop) s
  | .closeCover => attempt .cmdClose .btnClose 1 (returnTo .cmdClose) s
  | .setPosition t => beginSetPosition t s

/-- The meaning of a command is its rule up to its first call, run on over the external moves. -/
theorem exec_toInstr (c : Command) (s : State) : exec c.toInstr s = .next (settle s.env (beginCommand c s)) := by
  cases c <;> rfl

theorem beginCommand_ruleRan (c : Command) (s : State) : RuleRan s (beginCommand c s) := by
  cases c with
  | openCover => exact attempt_ruleRan _ _ fun r => returnTo_ruleRan _ r s
  | stopCover => exact attempt_ruleRan _ _ fun r => returnTo_ruleRan _ r s
  | closeCover => exact attempt_ruleRan _ _ fun r => returnTo_ruleRan _ r s
  | setPosition t => exact beginSetPosition_ruleRan t s

/-! ### The Driver's answer -/

/-- The state once `TXLOG` holds the transmission of repeat `rep`. -/
def logged (b : Button) (rep : Nat) (f : Frame) (a : Answer) (s : State) : State :=
  logTransmit ⟨s.code, b, rep, serialize f, a⟩ s

/-- All that can follow the Driver's answer to repeat `rep`: the next repeat, the error of its `ENCODE`, the write of the
next code, or the halt. -/
inductive Sent (ctx : Ctx) (b : Button) (rep : Nat) (f : Frame) (a : Answer) (s : State) : State → Prop where
  | next (f' : Frame) (ha : a = .ok) (hrep : rep < 6)
      (henc : encodeFrame s.cfg s.cfg.serial s.code b.code (rep + 1) = .frame f') :
      Sent ctx b rep f a s (enterPhase (.tx ctx b (rep + 1) f') (logged b rep f a s))
  | invalid (henc : encodeFrame s.cfg s.cfg.serial s.code b.code (rep + 1) = .invalidCodeIndex s.code) :
      Sent ctx b rep f a s (returnTo ctx (.invalidCodeIndex s.code) (logged b rep f a s))
  | ended (r : BurstResult) (hr : r = .ok ∨ r = .driverFailure s.code rep) (hcode : s.code ≠ 0xFFFFFFFF#32) :
      Sent ctx b rep f a s (enterPhase (.persist ctx (s.code + 1#32) r) (logged b rep f a s))
  | exhausted (hcode : s.code = 0xFFFFFFFF#32) :
      Sent ctx b rep f a s (enterPhase (.halted .codeExhausted)
        (report (.codeExhausted s.code) (setMoving (movingAfterHalt ctx s.moving) (logged b rep f a s))))

/-- The end of a burst, as what follows its last answer. -/
theorem sent_advance (ctx : Ctx) (b : Button) (rep : Nat) (f : Frame) (a : Answer) (s : State) {r : BurstResult}
    (hr : r = .ok ∨ r = .driverFailure s.code rep) : Sent ctx b rep f a s (advance ctx r (logged b rep f a s)) := by
  rcases advance_cases ctx r (logged b rep f a s) with ⟨hcode, h⟩ | ⟨hcode, h⟩ <;> rw [h]
  · exact .ended r hr hcode
  · exact .exhausted hcode

theorem sent_transmitted (ctx : Ctx) (b : Button) (rep : Nat) (f : Frame) (a : Answer) (s : State) :
    Sent ctx b rep f a s (transmitted ctx b rep f a s) := by
  rcases transmitted_cases ctx b rep f a s with ⟨ha, hrep, h⟩ | ⟨-, -, h⟩ | ⟨-, h⟩ <;> rw [h]
  · rcases attempt_cases ctx b (rep + 1) (returnTo ctx) (logged b rep f a s) with ⟨f', henc, h'⟩ | ⟨henc, h'⟩
    · exact h' ▸ .next f' ha hrep henc
    · exact h' ▸ .invalid henc
  · exact sent_advance ctx b rep f a s (.inl rfl)
  · exact sent_advance ctx b rep f a s (.inr rfl)

/-! ### The moves of a run -/

/-- One move within a step, other than a restart, the start of startup and dispatch: an external move, a cancelled wait,
or a change of the list of moves to come. -/
inductive Moved (s : State) : State → Prop where
  | listed (es : List EnvEvent) : Moved s (setEnv es s)
  | delivered (raw : RawCommand) (hroom : hasRoom s = true) : Moved s (deliverCommand raw s)
  | reconnected : Moved s (publish s)
  | answered (ctx : Ctx) (b : Button) (rep : Nat) (f : Frame) (a : Answer) (hp : s.phase = .tx ctx b rep f) :
      Moved s (transmitted ctx b rep f a s)
  | written (ctx : Ctx) (new : U32) (r : BurstResult) (a : Answer) (hp : s.phase = .persist ctx new r) :
      Moved s (persisted ctx new r a s)
  | elapsed (t : Byte) (d : Rat) (hp : s.phase = .wait t d) : Moved s (waitElapsed t s)
  | guarded (hp : s.phase = .guard) : Moved s (enterPhase .idle s)
  | cancelled (t : Byte) (d : Rat) (hp : s.phase = .wait t d) (hq : s.cmdq ≠ []) : Moved s (waitCancelled t s)

theorem cancelIfQueued_moved (s : State) : Moved s (cancelIfQueued s) := by
  rcases cancelIfQueued_cases s with h | ⟨t, d, hp, hq, h⟩ <;> rw [h]
  · exact .listed s.env
  · exact .cancelled t d hp hq

/-- What an accepted external move does, other than a restart. -/
theorem react_moved {e : EnvEvent} {s : State} (he : e ≠ .restart) (ha : accepts e s = true) :
    Moved s (react e s) := by
  cases e with
  | deliver raw => exact .delivered raw ha
  | reconnect => exact .reconnected
  | restart => exact absurd rfl he
  | driver a =>
    cases hp : s.phase with
    | tx ctx b rep f => simpa [react, hp] using Moved.answered ctx b rep f a hp
    | _ => simp [accepts, hp] at ha
  | storage a =>
    cases hp : s.phase with
    | persist ctx new r => simpa [react, hp] using Moved.written ctx new r a hp
    | _ => simp [accepts, hp] at ha
  | elapsed =>
    cases hp : s.phase with
    | wait t d => simpa [react, hp] using Moved.elapsed t d hp
    | guard => simpa [react, hp] using Moved.guarded hp
    | _ => simp [accepts, hp] at ha
  | unreadable => exact .listed s.env
  | proceed => exact cancelIfQueued_moved s

/-- What every move keeps holds where a run ends. -/
theorem settle_keeps {P : State → Prop} (hmove : ∀ s t, Moved s t → P s → P t) (es : List EnvEvent) {s : State}
    (h : P s) : P (settle es s) :=
  settle_induction (fun es s => hmove s _ (.listed es)) (fun s => hmove s _ (cancelIfQueued_moved s))
    (fun _ s he _ ha => hmove s _ (react_moved he ha)) es s h

/-- A frame instruction is the transmission of its word. -/
theorem exec_frameInstr (b : Button) (r sn : BitVec 4) (e : BitVec 16) (k : BitVec 24) (s : State) :
    exec (frameInstr b r sn e k) s = .next (transmitFrame b (frameWord (buttonNibble b) r sn e k) s) := by
  cases b <;> rfl

/-- At the Driver's answer, the frame that the decoder reads is transmitted, or nothing happens where the phase names
another button. -/
theorem exec_decodedFrame {s t : State} {ctx : Ctx} {b : Button} {rep : Nat} {f : Frame} {a : Answer}
    {es : List EnvEvent} {i : Instr} (hp : s.phase = .tx ctx b rep f) (he : s.env = .driver a :: es)
    (hf : decodeFrame f = some i) (h : exec i s = .next t) :
    t = s ∨ t = transmitted ctx b rep f a (setEnv es s) := by
  obtain ⟨b', r, sn, e, k, rfl, rfl⟩ := (decodeFrame_eq_some_iff f i).mp hf
  rw [exec_frameInstr] at h
  obtain rfl := Host.Outcome.next.inj h
  by_cases hb : b = b'
  · exact .inr (by simp [transmitFrame, hp, he, hb])
  · exact .inl (by simp [transmitFrame, hp, he, hb])

/-- What every move keeps, and startup, dispatch and a restart establish, holds after a step. -/
theorem step_keeps {P : State → Prop} {s t : State} (hmove : ∀ s t, Moved s t → P s → P t)
    (hstart : ∀ es read, s.phase = .reset →
      read = s.stored ∨ (read = none ∧ s.env.head? = some .unreadable) → P (beginStartup read (setEnv es s)))
    (hdispatch : ∀ es c q, s.phase = .idle → s.cmdq = c :: q → P (beginCommand c (setQueue q (setEnv es s))))
    (hrestart : ∀ es, s.env = .restart :: es → P (restartState (setEnv es s)))
    (h : step s = .next t) (hs : P s) : P t := by
  cases step_cases h with
  | waited es ht => exact ht ▸ hmove s _ (.listed es) hs
  | started es read hp hread ht => exact ht ▸ settle_keeps hmove es (hstart es read hp hread)
  | dispatched es c q hp hq ht =>
    rw [exec_toInstr] at ht
    exact Host.Outcome.next.inj ht ▸ settle_keeps hmove _ (hdispatch es c q hp hq)
  | cancelled es ht => exact ht ▸ hmove _ _ (cancelIfQueued_moved _) (hmove s _ (.listed es) hs)
  | framed ctx b rep f a es i hp he hf ht =>
    rcases exec_decodedFrame hp he hf ht with rfl | rfl
    · exact hs
    · exact hmove _ _ (.answered ctx b rep f a hp) (hmove s _ (.listed es) hs)
  | reacted e es he ha ht =>
    subst ht
    by_cases hr : e = .restart
    · subst hr
      exact hrestart es he
    · have ha' : accepts e (setEnv es s) = true := by cases e <;> exact ha
      exact hmove _ _ (react_moved hr ha') (hmove s _ (.listed es) hs)

/-! ### What a move does to the code, the log and the durable cell -/

/-- The phases in which no burst is in progress and a rule can go on. -/
def restsBetweenBursts : Phase → Bool
  | .wait _ _ => true
  | .guard => true
  | .idle => true
  | .reset => false
  | .tx _ _ _ _ => false
  | .persist _ _ _ => false
  | .halted _ => false

/-- The four effects of a move: none on the burst, a rule that runs on, a transmission, a committed code. -/
inductive Effect (s t : State) : Prop where
  | none (h : KeepsRegisters s t)
  | ruled (hp : restsBetweenBursts s.phase = true) (h : RuleRan s t)
  | sent (ctx : Ctx) (b : Button) (rep : Nat) (f : Frame) (a : Answer) (hp : s.phase = .tx ctx b rep f)
      (h : Sent ctx b rep f a s t)
  | committed (ctx : Ctx) (new : U32) (r : BurstResult) (a : Answer) (hp : s.phase = .persist ctx new r)
      (h : RuleRan (commit new a s) t)

theorem Moved.effect {s t : State} (h : Moved s t) : Effect s t := by
  cases h with
  | listed es => exact .none (keepsRegisters_setEnv es s)
  | delivered raw => exact .none (keepsRegisters_deliverCommand raw s)
  | reconnected => exact .none (keepsRegisters_publish s)
  | answered ctx b rep f a hp => exact .sent ctx b rep f a hp (sent_transmitted ..)
  | written ctx new r a hp => exact .committed ctx new r a hp (returnTo_ruleRan ..)
  | elapsed t d hp => exact .ruled (by rw [hp]; rfl) (waitElapsed_ruleRan t s)
  | guarded hp => exact .ruled (by rw [hp]; rfl) ((Quiet.refl s).enterPhase_ruleRan rfl)
  | cancelled t d hp => exact .ruled (by rw [hp]; rfl) (waitCancelled_ruleRan t s)

/-- Dispatch is the start of a rule. -/
theorem beginCommand_effect {s : State} (hp : s.phase = .idle) (es : List EnvEvent) (c : Command) (q : List Command) :
    Effect s (beginCommand c (setQueue q (setEnv es s))) :=
  .ruled (by rw [hp]; rfl) (((quiet_setEnv es s).trans (quiet_setQueue q _)).ruleRan (beginCommand_ruleRan c _))

/-! ### The histories -/

/-- The configuration is the same and each history holds at least the entries it held. -/
structure Extends (s t : State) : Prop where
  cfg : t.cfg = s.cfg
  txlog : s.txlog <+: t.txlog
  publog : s.publog <+: t.publog
  evlog : s.evlog <+: t.evlog

theorem Extends.refl (s : State) : Extends s s := ⟨rfl, List.prefix_rfl, List.prefix_rfl, List.prefix_rfl⟩

theorem Extends.trans {s t u : State} (h : Extends s t) (h' : Extends t u) : Extends s u :=
  ⟨h'.cfg.trans h.cfg, h.txlog.trans h'.txlog, h.publog.trans h'.publog, h.evlog.trans h'.evlog⟩

theorem Quiet.extends {s t : State} (h : Quiet s t) : Extends s t :=
  ⟨h.cfg, h.txlog ▸ List.prefix_rfl, h.publog, h.evlog⟩

theorem extends_logged (b : Button) (rep : Nat) (f : Frame) (a : Answer) (s : State) :
    Extends s (logged b rep f a s) :=
  ⟨rfl, List.prefix_append _ _, List.prefix_rfl, List.prefix_rfl⟩

theorem extends_commit (new : U32) (a : Answer) (s : State) : Extends s (commit new a s) :=
  ⟨commit_cfg .., by rw [commit_txlog], by rw [commit_publog], by rw [commit_evlog]; exact List.prefix_append _ _⟩

theorem extends_load (read : Option U32) (s : State) : Extends s (load read s) :=
  ⟨rfl, List.prefix_rfl, List.prefix_rfl, List.prefix_rfl⟩

theorem extends_restartState (s : State) : Extends s (restartState s) :=
  ⟨rfl, List.prefix_rfl, List.prefix_rfl, List.prefix_rfl⟩

theorem Sent.extends {ctx : Ctx} {b : Button} {rep : Nat} {f : Frame} {a : Answer} {s t : State}
    (h : Sent ctx b rep f a s t) : Extends s t := by
  refine (extends_logged b rep f a s).trans ?_
  cases h with
  | next f' => exact (quiet_enterPhase _ _).extends
  | invalid => exact (returnTo_ruleRan ctx _ _).extends
  | ended r => exact (quiet_enterPhase _ _).extends
  | exhausted => exact (((quiet_setMoving _ _).trans (quiet_report _ _)).trans (quiet_enterPhase _ _)).extends

theorem Effect.extends {s t : State} (h : Effect s t) : Extends s t := by
  cases h with
  | none h => exact h.extends
  | ruled _ h => exact h.extends
  | sent _ _ _ _ _ _ h => exact h.extends
  | committed _ new _ a _ h => exact (extends_commit new a s).trans h.extends

/-- Settles O54: every move extends the histories, and so do startup, dispatch and a restart. -/
theorem historiesOnlyGrow : Obligations.HistoriesOnlyGrow := by
  intro s s' h
  have hext : Extends s s' := by
    refine step_keeps (P := Extends s) (fun t u hm ht => ht.trans hm.effect.extends) ?start ?dispatch ?restart h
      (Extends.refl s)
    case start =>
      exact fun es read _ _ => (quiet_setEnv es s).extends.trans
        ((extends_load read _).trans (beginStartup_ruleRan read _).extends)
    case dispatch => exact fun es c q hp _ => (beginCommand_effect hp es c q).extends
    case restart => exact fun es _ => (quiet_setEnv es s).extends.trans (extends_restartState _)
  exact ⟨hext.cfg, hext.txlog, hext.publog, hext.evlog⟩

end Sys2Proof.Proofs

/-! PROOFS. The legal states: every move keeps them. -/

namespace Sys2Proof.Proofs

open Sys2Proof.Machine

/-! ### The parts of legality -/

/-- The half of legality that names no phase and no flag: the configuration, the position and the queue's entries. -/
structure Sound (s : State) : Prop where
  config : configWf s.cfg = true
  pos : s.pos.toNat ≤ 100
  queueWf : ∀ c ∈ s.cmdq, c.wf = true
  capacity : ∀ cap, s.cfg.cmdqCap = some cap → s.cmdq.length ≤ cap

theorem Sound.keep {s t : State} (h : Sound s) (hcfg : t.cfg = s.cfg) (hpos : t.pos = s.pos) (hcmdq : t.cmdq = s.cmdq) :
    Sound t :=
  ⟨hcfg ▸ h.config, hpos ▸ h.pos, hcmdq ▸ h.queueWf, hcfg ▸ hcmdq ▸ h.capacity⟩

/-- A state of a burst of this context, whatever its phase: the operands and the flags that the context goes with. It
holds from the start of the burst until its rule goes on. -/
structure InBurst (ctx : Ctx) (s : State) : Prop extends Sound s where
  operands : ctxLegal s.cfg s.pos ctx = true
  moving : s.moving = ctxMoving ctx
  known : ctxMoving ctx = true → s.known = true
  startup : ctx = .startupRef → s.known = false ∧ s.cmdq = []

theorem InBurst.keep {ctx : Ctx} {s t : State} (h : InBurst ctx s) (hcfg : t.cfg = s.cfg) (hpos : t.pos = s.pos)
    (hcmdq : t.cmdq = s.cmdq) (hknown : t.known = s.known) (hmoving : t.moving = s.moving) : InBurst ctx t where
  toSound := h.toSound.keep hcfg hpos hcmdq
  operands := by rw [hcfg, hpos]; exact h.operands
  moving := hmoving.trans h.moving
  known := fun hm => hknown.trans (h.known hm)
  startup := fun hctx => ⟨hknown.trans (h.startup hctx).1, hcmdq.trans (h.startup hctx).2⟩

theorem legal_iff (s : State) :
    s.Legal ↔ Sound s ∧ (startupWindow s.phase = true → s.cmdq = []) ∧ phaseLegal s ∧ flagsLegal s := by
  constructor
  · rintro ⟨hcfg, hpos, ⟨hwf, hcap, hempty⟩, hphase, hflags⟩
    exact ⟨⟨hcfg, hpos, hwf, hcap⟩, hempty, hphase, hflags⟩
  · rintro ⟨⟨hcfg, hpos, hwf, hcap⟩, hempty, hphase, hflags⟩
    exact ⟨hcfg, hpos, ⟨hwf, hcap, hempty⟩, hphase, hflags⟩

theorem sound_of_legal {s : State} (h : s.Legal) : Sound s := ((legal_iff s).mp h).1

@[simp] theorem startupWindow_tx (ctx : Ctx) (b : Button) (rep : Nat) (f : Frame) :
    startupWindow (.tx ctx b rep f) = decide (ctx = .startupRef) := by cases ctx <;> rfl

@[simp] theorem startupWindow_persist (ctx : Ctx) (new : U32) (r : BurstResult) :
    startupWindow (.persist ctx new r) = decide (ctx = .startupRef) := by cases ctx <;> rfl

@[simp] theorem phaseUnreferenced_tx (ctx : Ctx) (b : Button) (rep : Nat) (f : Frame) :
    phaseUnreferenced (.tx ctx b rep f) = decide (ctx = .startupRef) := by cases ctx <;> rfl

@[simp] theorem phaseUnreferenced_persist (ctx : Ctx) (new : U32) (r : BurstResult) :
    phaseUnreferenced (.persist ctx new r) = decide (ctx = .startupRef) := by cases ctx <;> rfl

@[simp] theorem phaseMoving_tx (ctx : Ctx) (b : Button) (rep : Nat) (f : Frame) :
    phaseMoving (.tx ctx b rep f) = ctxMoving ctx := rfl

@[simp] theorem phaseMoving_persist (ctx : Ctx) (new : U32) (r : BurstResult) :
    phaseMoving (.persist ctx new r) = ctxMoving ctx := rfl

/-! ### From a legal phase to its burst, and back -/

/-- What a legal `TX` phase holds. -/
theorem legal_tx_iff {s : State} {ctx : Ctx} {b : Button} {rep : Nat} {f : Frame} (hp : s.phase = .tx ctx b rep f) :
    s.Legal ↔ InBurst ctx s ∧ b = ctxButton s.cfg s.pos ctx ∧ 1 ≤ rep ∧ rep ≤ 6 ∧
      encodeFrame s.cfg s.cfg.serial s.code b.code rep = .frame f := by
  simp only [legal_iff, phaseLegal, flagsLegal, hp, startupWindow_tx, phaseUnreferenced_tx, phaseMoving_tx,
    decide_eq_true_eq]
  constructor
  · rintro ⟨hs, hempty, ⟨hctx, hburst⟩, hmoving, hknown, hstart⟩
    exact ⟨⟨hs, hctx, hmoving, hknown, fun h => ⟨hstart h, hempty h⟩⟩, hburst⟩
  · rintro ⟨⟨hs, hctx, hmoving, hknown, hstart⟩, hburst⟩
    exact ⟨hs, fun h => (hstart h).2, ⟨hctx, hburst⟩, hmoving, hknown, fun h => (hstart h).1⟩

/-- What a legal `PERSIST` phase holds. -/
theorem legal_persist_iff {s : State} {ctx : Ctx} {new : U32} {r : BurstResult} (hp : s.phase = .persist ctx new r) :
    s.Legal ↔ InBurst ctx s ∧ s.code ≠ 0xFFFFFFFF#32 ∧ new = s.code + 1#32 ∧
      (r = .ok ∨ ∃ k, r = .driverFailure s.code k ∧ 1 ≤ k ∧ k ≤ 6) := by
  simp only [legal_iff, phaseLegal, flagsLegal, hp, startupWindow_persist, phaseUnreferenced_persist,
    phaseMoving_persist, decide_eq_true_eq]
  constructor
  · rintro ⟨hs, hempty, ⟨hctx, hburst⟩, hmoving, hknown, hstart⟩
    exact ⟨⟨hs, hctx, hmoving, hknown, fun h => ⟨hstart h, hempty h⟩⟩, hburst⟩
  · rintro ⟨⟨hs, hctx, hmoving, hknown, hstart⟩, hburst⟩
    exact ⟨hs, fun h => (hstart h).2, ⟨hctx, hburst⟩, hmoving, hknown, fun h => (hstart h).1⟩

/-- What a legal wait holds. -/
theorem legal_wait_iff {s : State} {t : Byte} {d : Rat} (hp : s.phase = .wait t d) :
    s.Legal ↔ Sound s ∧ estimating s.cfg s.pos t = true ∧ d = waitSeconds s.cfg s.pos t ∧ s.moving = true ∧
      s.known = true := by
  simp [legal_iff, phaseLegal, flagsLegal, hp, startupWindow, phaseUnreferenced, phaseMoving, and_assoc]

/-- What a legal idle Controller holds. -/
theorem legal_idle_iff {s : State} (hp : s.phase = .idle) : s.Legal ↔ Sound s ∧ s.moving = false := by
  simp [legal_iff, phaseLegal, flagsLegal, hp, startupWindow, phaseUnreferenced, phaseMoving]

/-- What a legal halted Controller holds. -/
theorem legal_halted_iff {s : State} {r : HaltReason} (hp : s.phase = .halted r) :
    s.Legal ↔ Sound s ∧ s.moving = false := by
  simp [legal_iff, phaseLegal, flagsLegal, hp, startupWindow, phaseUnreferenced, phaseMoving]

/-- What a legal guard holds. -/
theorem legal_guard_iff {s : State} (hp : s.phase = .guard) :
    s.Legal ↔ Sound s ∧ s.cmdq = [] ∧ s.moving = false := by
  simp [legal_iff, phaseLegal, flagsLegal, hp, startupWindow, phaseUnreferenced, phaseMoving]

/-- What a legal state at `RESET` holds. -/
theorem legal_reset_iff {s : State} (hp : s.phase = .reset) :
    s.Legal ↔ Sound s ∧ s.cmdq = [] ∧ s.moving = false ∧ s.known = false := by
  simp [legal_iff, phaseLegal, flagsLegal, hp, startupWindow, phaseUnreferenced, phaseMoving]

theorem finish_legal {s : State} (h : Sound s) (hm : s.moving = false) (c : Command) (st : Status) :
    (finish c st s).Legal :=
  (legal_idle_iff rfl).mpr ⟨h.keep rfl rfl rfl, hm⟩

/-! ### Positions -/

/-- The two extremes are the two ends of the range. -/
theorem openPos_closedPos (cfg : Config) :
    (openPos cfg = 100#7 ∧ closedPos cfg = 0#7) ∨ (openPos cfg = 0#7 ∧ closedPos cfg = 100#7) := by
  cases h : cfg.closedPos with
  | at0 => exact .inl (by simp [openPos, closedPos, extremePos, h])
  | at100 => exact .inr (by simp [openPos, closedPos, extremePos, h])

theorem posOf_le (cfg : Config) (tr : Travel) : (posOf cfg tr).toNat ≤ 100 := by
  rcases openPos_closedPos cfg with ⟨hopen, hclosed⟩ | ⟨hopen, hclosed⟩ <;>
    cases tr <;> simp [posOf, hopen, hclosed]

/-- `POS` holds a legal target whole. -/
theorem toNat_setWidth_target {t : Byte} (h : t.toNat ≤ 100) : (t.setWidth 7).toNat = t.toNat := by
  rw [BitVec.toNat_setWidth]
  omega

theorem delta_eq_zero_iff (pos : BitVec 7) (t : Byte) : delta pos t = 0 ↔ pos.toNat = t.toNat := by
  unfold delta
  omega

theorem estimating_iff (cfg : Config) (pos : BitVec 7) (t : Byte) :
    estimating cfg pos t = true ↔ t.toNat ≤ 100 ∧ pos.toNat ≠ t.toNat ∧ cfg.tTotal ≠ 0 := by
  simp [estimating, and_assoc]

/-! ### The ends of the rules -/

theorem endMove_sound {s : State} (h : Sound s) (tr : Travel) (r : BurstResult) : Sound (endMove tr r s) := by
  refine ⟨by simpa using h.config, ?_, by simpa using h.queueWf, by simpa using h.capacity⟩
  rw [endMove_pos]
  split_ifs
  · exact posOf_le _ _
  · exact h.pos

theorem attempt_legal {ctx : Ctx} {b : Button} {k : BurstResult → State → State} {s : State} (h : InBurst ctx s)
    (hb : b = ctxButton s.cfg s.pos ctx) (hk : ∀ r, (k r s).Legal) : (attempt ctx b 1 k s).Legal := by
  rcases attempt_cases ctx b 1 k s with ⟨f, henc, heq⟩ | ⟨-, heq⟩ <;> rw [heq]
  · exact (legal_tx_iff rfl).mpr ⟨h.keep rfl rfl rfl rfl rfl, hb, le_rfl, by decide, henc⟩
  · exact hk _

theorem endReference_legal {s : State} (h : InBurst .startupRef s) (r : BurstResult) : (endReference r s).Legal := by
  have hs := endMove_sound h.toSound s.cfg.refButton r
  refine (legal_guard_iff rfl).mpr ⟨hs.keep rfl rfl rfl, ?_, ?_⟩
  · exact (endMove_cmdq ..).trans (h.startup rfl).2
  · exact (endMove_moving ..).trans h.moving

theorem endTravel_legal {s : State} (h : Sound s) (hm : s.moving = false) (tr : Travel) (c : Command)
    (r : BurstResult) : (endTravel tr c r s).Legal :=
  finish_legal (endMove_sound h tr r) ((endMove_moving ..).trans hm) c _

theorem endStop_legal {s : State} (h : Sound s) (hm : s.moving = false) (r : BurstResult) : (endStop r s).Legal :=
  (legal_idle_iff rfl).mpr ⟨h.keep rfl rfl rfl, hm⟩

theorem endFinalStop_legal {s : State} (h : Sound s) {t : Byte} (ht : t.toNat ≤ 100) (r : BurstResult) :
    (endFinalStop t r s).Legal := by
  cases r with
  | ok =>
    exact (legal_idle_iff rfl).mpr
      ⟨⟨h.config, (toNat_setWidth_target ht).trans_le ht, h.queueWf, h.capacity⟩, rfl⟩
  | _ => exact (legal_idle_iff rfl).mpr ⟨h.keep rfl rfl rfl, rfl⟩

theorem endDirection_legal {s : State} {t : Byte} (h : InBurst (.spDir t) s) (r : BurstResult) :
    (endDirection t r s).Legal := by
  cases r with
  | ok =>
    exact (legal_wait_iff rfl).mpr
      ⟨h.toSound.keep rfl rfl rfl, h.operands, rfl, h.moving, h.known rfl⟩
  | _ => exact (legal_idle_iff rfl).mpr ⟨h.toSound.keep rfl rfl rfl, rfl⟩

theorem estimate_legal {s : State} (h : Sound s) {t : Byte} (ht : t.toNat ≤ 100) (hT : s.cfg.tTotal ≠ 0)
    (hk : s.known = true) (hm : s.moving = false) : (estimate t s).Legal := by
  unfold estimate
  split_ifs with hd
  · exact (legal_idle_iff rfl).mpr ⟨h.keep rfl rfl rfl, hm⟩
  · have hdir : InBurst (.spDir t) (setMoving true s) :=
      ⟨h.keep rfl rfl rfl,
        (estimating_iff ..).mpr ⟨ht, mt (delta_eq_zero_iff s.pos t).mpr hd, hT⟩, rfl, fun _ => hk, Ctx.noConfusion⟩
    exact attempt_legal hdir rfl fun r => endDirection_legal hdir r

theorem endRehome_legal {s : State} {t : Byte} (h : InBurst (.spRehome t) s) (r : BurstResult) :
    (endRehome t r s).Legal := by
  have hs := endMove_sound h.toSound s.cfg.refButton r
  have hm : (endMove s.cfg.refButton r s).moving = false := (endMove_moving ..).trans h.moving
  cases r with
  | ok =>
    obtain ⟨ht, hT⟩ : t.toNat ≤ 100 ∧ s.cfg.tTotal ≠ 0 := by simpa [ctxLegal] using h.operands
    exact estimate_legal hs ht hT rfl hm
  | _ => exact finish_legal hs hm _ _

/-- The rule that a legal burst returns to leaves a legal state, whatever the burst's result. -/
theorem returnTo_legal {ctx : Ctx} {s : State} (h : InBurst ctx s) (r : BurstResult) : (returnTo ctx r s).Legal := by
  cases ctx with
  | startupRef => exact endReference_legal h r
  | cmdOpen => exact endTravel_legal h.toSound h.moving .toOpen .openCover r
  | cmdClose => exact endTravel_legal h.toSound h.moving .toClosed .closeCover r
  | cmdStop => exact endStop_legal h.toSound h.moving r
  | spRehome t => exact endRehome_legal h r
  | spDir t => exact endDirection_legal h r
  | spStop t => exact endFinalStop_legal h.toSound ((estimating_iff ..).mp h.operands).1 r

/-! ### The moves -/

/-- What `ENCODE` answers one repeat of a burst it answers every other. -/
theorem encodeFrame_ne_invalid {cfg : Config} {serial code : U32} {button rep rep' : Nat} {f : Frame}
    (h : encodeFrame cfg serial code button rep = .frame f) :
    encodeFrame cfg serial code button rep' ≠ .invalidCodeIndex code := by
  obtain ⟨f', h'⟩ := encodeFrame_frame_of_frame h serial button rep'
  simp [h']

theorem sent_legal {ctx : Ctx} {b : Button} {rep : Nat} {f : Frame} {a : Answer} {s t : State} (hl : s.Legal)
    (hp : s.phase = .tx ctx b rep f) (h : Sent ctx b rep f a s t) : t.Legal := by
  obtain ⟨hburst, hb, hlo, hhi, henc⟩ := (legal_tx_iff hp).mp hl
  cases h with
  | next f' _ hrep henc' =>
    exact (legal_tx_iff rfl).mpr ⟨hburst.keep rfl rfl rfl rfl rfl, hb, Nat.le_add_left 1 rep, hrep, henc'⟩
  | invalid henc' => exact absurd henc' (encodeFrame_ne_invalid henc)
  | ended r hr hcode =>
    exact (legal_persist_iff rfl).mpr
      ⟨hburst.keep rfl rfl rfl rfl rfl, hcode, rfl, hr.imp_right fun h => ⟨rep, h, hlo, hhi⟩⟩
  | exhausted =>
    refine (legal_halted_iff rfl).mpr ⟨hburst.toSound.keep rfl rfl rfl, ?_⟩
    cases hm : ctxMoving ctx with
    | true => exact movingAfterHalt_of_ctxMoving hm _
    | false => exact (movingAfterHalt_of_not_ctxMoving hm _).trans (hburst.moving.trans hm)

theorem persisted_legal {s : State} {ctx : Ctx} {new : U32} {r : BurstResult} (hl : s.Legal)
    (hp : s.phase = .persist ctx new r) (a : Answer) : (persisted ctx new r a s).Legal := by
  obtain ⟨hburst, -⟩ := (legal_persist_iff hp).mp hl
  have hcommitted : InBurst ctx (commit new a s) :=
    hburst.keep (commit_cfg ..) (commit_pos ..) (commit_cmdq ..) (commit_known ..) (commit_moving ..)
  exact returnTo_legal hcommitted r

/-- A decoded command is well formed (30_encoding.md R70). -/
theorem decodeRaw_wf {raw : RawCommand} {c : Command} (h : decodeRaw raw = some c) : c.wf = true := by
  cases raw with
  | word w => exact ((decode16_eq_some_iff w c).mp h).1
  | text topic payload =>
    rcases (textGrammar topic payload c).mp h with ⟨-, ⟨-, rfl⟩ | ⟨-, rfl⟩ | ⟨-, rfl⟩⟩ | ⟨-, ds, -, -, -, hle, rfl⟩
    · rfl
    · rfl
    · rfl
    · simp only [Command.wf, BitVec.toNat_ofNat, decide_eq_true_eq]
      omega

/-- A move of the Host that queues nothing keeps a state legal. -/
theorem KeepsRegisters.legal {s t : State} (h : KeepsRegisters s t) (hcmdq : t.cmdq = s.cmdq) (hl : s.Legal) :
    t.Legal := by
  unfold State.Legal queueLegal phaseLegal flagsLegal at hl ⊢
  rwa [h.cfg, h.code, h.pos, h.known, h.moving, h.phase, hcmdq]

/-- Admission keeps a state legal: what it queues is well formed, there is room, and in the startup window it queues
nothing. -/
theorem deliverCommand_legal {s : State} (hl : s.Legal) (raw : RawCommand) (hroom : hasRoom s = true) :
    (deliverCommand raw s).Legal := by
  rcases deliverCommand_cases raw s with ⟨-, h⟩ | ⟨c, hraw, ⟨-, h⟩ | ⟨hwindow, h⟩⟩ <;> rw [h]
  · exact (keepsRegisters_report _ s).legal rfl hl
  · exact (keepsRegisters_report _ s).legal rfl hl
  · obtain ⟨⟨hcfg, hpos, hwf, -⟩, -, hphase, hflags⟩ := (legal_iff s).mp hl
    refine (legal_iff _).mpr ⟨⟨hcfg, hpos, ?queued, ?room⟩, fun hw => ?window, hphase, hflags⟩
    case queued =>
      intro c' hc'
      rcases List.mem_append.mp hc' with hmem | hmem
      · exact hwf c' hmem
      · exact List.mem_singleton.mp hmem ▸ decodeRaw_wf hraw
    case room =>
      intro cap hcap
      rw [enqueue_cmdq, List.length_append, List.length_singleton]
      exact (hasRoom_iff s).mp hroom cap hcap
    case window => exact absurd (hw.symm.trans hwindow) Bool.noConfusion

theorem waitElapsed_legal {s : State} {t : Byte} {d : Rat} (hl : s.Legal) (hp : s.phase = .wait t d) :
    (waitElapsed t s).Legal := by
  obtain ⟨hs, hest, -, hmoving, hknown⟩ := (legal_wait_iff hp).mp hl
  have hstop : InBurst (.spStop t) s := ⟨hs, hest, hmoving, fun _ => hknown, Ctx.noConfusion⟩
  exact attempt_legal hstop rfl fun r => returnTo_legal hstop r

theorem Moved.legal {s t : State} (h : Moved s t) (hl : s.Legal) : t.Legal := by
  cases h with
  | listed es => exact (keepsRegisters_setEnv es s).legal rfl hl
  | delivered raw hroom => exact deliverCommand_legal hl raw hroom
  | reconnected => exact (keepsRegisters_publish s).legal rfl hl
  | answered ctx b rep f a hp => exact sent_legal hl hp (sent_transmitted ..)
  | written ctx new r a hp => exact persisted_legal hl hp a
  | elapsed t d hp => exact waitElapsed_legal hl hp
  | guarded hp =>
    obtain ⟨hs, -, hm⟩ := (legal_guard_iff hp).mp hl
    exact (legal_idle_iff rfl).mpr ⟨hs.keep rfl rfl rfl, hm⟩
  | cancelled t d hp =>
    have hs := sound_of_legal hl
    exact (legal_idle_iff rfl).mpr ⟨hs.keep rfl rfl rfl, rfl⟩

/-! ### Startup, dispatch and restart -/

theorem beginStartup_legal {s : State} (hl : s.Legal) (hp : s.phase = .reset) (read : Option U32)
    (es : List EnvEvent) : (beginStartup read (setEnv es s)).Legal := by
  obtain ⟨hs, hcmdq, hmoving, hknown⟩ := (legal_reset_iff hp).mp hl
  have hstart : InBurst .startupRef (load read (setEnv es s)) :=
    ⟨hs.keep rfl rfl rfl, rfl, hmoving, Bool.noConfusion, fun _ => ⟨hknown, hcmdq⟩⟩
  exact attempt_legal hstart rfl fun r => returnTo_legal hstart r

theorem beginSetPosition_legal {s : State} (h : Sound s) (hm : s.moving = false) {t : Byte} (ht : t.toNat ≤ 100) :
    (beginSetPosition t s).Legal := by
  unfold beginSetPosition
  split_ifs with hT hk
  · exact (legal_idle_iff rfl).mpr ⟨h.keep rfl rfl rfl, hm⟩
  · exact estimate_legal h ht hT hk hm
  · have hrehome : InBurst (.spRehome t) s :=
      ⟨h, by simp [ctxLegal, ht, hT], hm, Bool.noConfusion, Ctx.noConfusion⟩
    exact attempt_legal hrehome rfl fun r => returnTo_legal hrehome r

theorem beginCommand_legal {s : State} (h : Sound s) (hm : s.moving = false) {c : Command} (hc : c.wf = true) :
    (beginCommand c s).Legal := by
  have direct {ctx : Ctx} (hctx : ctxLegal s.cfg s.pos ctx = true) (hmoving : ctxMoving ctx = false)
      (hstart : ctx ≠ .startupRef) : (attempt ctx (ctxButton s.cfg s.pos ctx) 1 (returnTo ctx) s).Legal := by
    have hburst : InBurst ctx s :=
      ⟨h, hctx, hm.trans hmoving.symm, fun h' => absurd (h'.symm.trans hmoving) Bool.noConfusion,
        fun h' => absurd h' hstart⟩
    exact attempt_legal hburst rfl fun r => returnTo_legal hburst r
  cases c with
  | openCover => exact direct (ctx := .cmdOpen) rfl rfl Ctx.noConfusion
  | stopCover => exact direct (ctx := .cmdStop) rfl rfl Ctx.noConfusion
  | closeCover => exact direct (ctx := .cmdClose) rfl rfl Ctx.noConfusion
  | setPosition t => exact beginSetPosition_legal h hm (of_decide_eq_true hc)

/-- Dispatch takes a well-formed command from the queue and leaves the others. -/
theorem dispatch_legal {s : State} (hl : s.Legal) (hp : s.phase = .idle) {c : Command} {q : List Command}
    (hq : s.cmdq = c :: q) (es : List EnvEvent) : (beginCommand c (setQueue q (setEnv es s))).Legal := by
  obtain ⟨⟨hcfg, hpos, hwf, hcap⟩, hmoving⟩ := (legal_idle_iff hp).mp hl
  rw [hq] at hwf hcap
  obtain ⟨hc, hrest⟩ := List.forall_mem_cons.mp hwf
  have hs : Sound (setQueue q (setEnv es s)) :=
    ⟨hcfg, hpos, hrest, fun cap h => (Nat.le_succ _).trans (hcap cap h)⟩
  exact beginCommand_legal hs hmoving hc

theorem resetWith_legal {cfg : Config} (h : configWf cfg = true) (stored : Option U32) :
    (State.resetWith cfg stored).Legal := by
  refine (legal_reset_iff rfl).mpr ⟨⟨h, ?_, fun c hc => ?_, fun cap _ => Nat.zero_le cap⟩, rfl, rfl, rfl⟩
  · exact (congrArg BitVec.toNat (resetPos_eq_refPos cfg)).trans_le (posOf_le cfg cfg.refButton)
  · cases hc

theorem restartState_legal {s : State} (hl : s.Legal) : (restartState s).Legal :=
  resetWith_legal (sound_of_legal hl).config s.stored

/-- Settles O49: every move, startup, dispatch and a restart keep a legal state legal. -/
theorem stepKeepsLegal : Obligations.StepKeepsLegal := fun _ _ hl h =>
  step_keeps (fun _ _ hm => hm.legal) (fun es read hp _ => beginStartup_legal hl hp read es)
    (fun es _ _ hp hq => dispatch_legal hl hp hq es) (fun _ _ => restartState_legal hl) h hl

end Sys2Proof.Proofs

/-! PROOFS. The invariants of the log of transmissions, the code and the durable cell, over all moves. -/

namespace Sys2Proof.Proofs

open Sys2Proof.Machine

/-- What every effect of a move on a legal state keeps, and the start of startup and a restart establish, holds after a
step of a legal state. -/
theorem step_keeps_of_legal {P : State → Prop} {s t : State}
    (heffect : ∀ s t, s.Legal → Effect s t → P s → P t)
    (hstart : ∀ read u, s.phase = .reset → read = s.stored ∨ (read = none ∧ s.env.head? = some .unreadable) →
      RuleRan (load read s) u → P u)
    (hrestart : ∀ es, s.env = .restart :: es → P (restartState (setEnv es s)))
    (hl : s.Legal) (hs : P s) (h : step s = .next t) : P t := by
  have hboth : t.Legal ∧ P t := by
    refine step_keeps (P := fun u => u.Legal ∧ P u) ?move ?start ?dispatch ?restart h ⟨hl, hs⟩
    case move => exact fun u v hm hu => ⟨hm.legal hu.1, heffect u v hu.1 hm.effect hu.2⟩
    case start =>
      intro es read hp hread
      have hran : RuleRan (load read s) (beginStartup read (setEnv es s)) :=
        (quiet_setEnv es (load read s)).ruleRan (beginStartup_ruleRan read (setEnv es s))
      exact ⟨beginStartup_legal hl hp read es, hstart read _ hp hread hran⟩
    case dispatch =>
      exact fun es c q hp hq => ⟨dispatch_legal hl hp hq es, heffect s _ hl (beginCommand_effect hp es c q) hs⟩
    case restart => exact fun es he => ⟨restartState_legal hl, hrestart es he⟩
  exact hboth.2

/-! ### The log is faithful to ENCODE and SERIALIZE -/

/-- Faithfulness depends on the configuration and the log alone. -/
theorem logFaithful_of_eq {s t : State} (hcfg : t.cfg = s.cfg) (hlog : t.txlog = s.txlog) (h : s.LogFaithful) :
    t.LogFaithful := by
  unfold State.LogFaithful at h ⊢
  rwa [hcfg, hlog]

theorem Quiet.logFaithful {s t : State} (h : Quiet s t) : s.LogFaithful → t.LogFaithful :=
  logFaithful_of_eq h.cfg h.txlog

/-- The frame at the Driver in a legal state is the one `ENCODE` makes, so its entry is faithful. -/
theorem logged_logFaithful {s : State} {ctx : Ctx} {b : Button} {rep : Nat} {f : Frame} (hl : s.Legal)
    (hp : s.phase = .tx ctx b rep f) (h : s.LogFaithful) (a : Answer) : (logged b rep f a s).LogFaithful := by
  obtain ⟨-, -, hlo, hhi, henc⟩ := (legal_tx_iff hp).mp hl
  intro e he
  rcases List.mem_append.mp he with hold | hnew
  · exact h e hold
  · obtain rfl := List.mem_singleton.mp hnew
    exact ⟨hlo, hhi, f, henc, rfl⟩

/-- A transmission adds the one entry that `logged` has. -/
theorem Sent.cfg_txlog {ctx : Ctx} {b : Button} {rep : Nat} {f : Frame} {a : Answer} {s t : State}
    (h : Sent ctx b rep f a s t) : t.cfg = s.cfg ∧ t.txlog = (logged b rep f a s).txlog := by
  cases h with
  | next => exact ⟨rfl, rfl⟩
  | invalid => exact ⟨(returnTo_ruleRan ctx _ _).cfg, (returnTo_ruleRan ctx _ _).txlog⟩
  | ended => exact ⟨rfl, rfl⟩
  | exhausted => exact ⟨rfl, rfl⟩

theorem Effect.logFaithful {s t : State} (hl : s.Legal) (h : Effect s t) (hs : s.LogFaithful) : t.LogFaithful := by
  cases h with
  | none h => exact h.toQuiet.logFaithful hs
  | ruled _ h => exact h.logFaithful hs
  | sent ctx b rep f a hp h =>
    obtain ⟨hcfg, htxlog⟩ := h.cfg_txlog
    exact logFaithful_of_eq (s := logged b rep f a s) hcfg htxlog (logged_logFaithful hl hp hs a)
  | committed ctx new r a hp h => exact h.logFaithful (logFaithful_of_eq (commit_cfg ..) (commit_txlog ..) hs)

/-- Settles O50: only the Driver's answer adds an entry, and in a legal state that entry is faithful. -/
theorem stepKeepsLogFaithful : Obligations.StepKeepsLogFaithful := fun _ _ hl hs h =>
  step_keeps_of_legal (fun _ _ hl he => he.logFaithful hl)
    (fun _ _ _ _ hran => hran.logFaithful (logFaithful_of_eq rfl rfl hs)) (fun _ _ => logFaithful_of_eq rfl rfl hs)
    hl hs h

/-! ### The codes are consumed in order -/

/-- An entry at the end of the log is in order where it may follow the last one. -/
theorem inOrder_concat (prev : Option TxEntry) (l : List TxEntry) (e : TxEntry) :
    inOrder prev (l ++ [e]) ↔ inOrder prev l ∧ mayFollow (l.getLast?.or prev) e.code e.button e.rep := by
  induction l generalizing prev with
  | nil => simp [inOrder]
  | cons x l ih =>
    rw [List.cons_append, inOrder, inOrder, ih, List.getLast?_cons, and_assoc]
    cases l.getLast? <;> rfl

/-- No burst is in progress and `CODE` is the one after the last code sent. -/
def codeFresh (s : State) : Prop := ∀ p, s.txlog.getLast? = some p → s.code.toNat = p.code.toNat + 1

/-- The first repeat of a fresh code may follow whatever the log ends with. -/
theorem mayFollow_of_codeFresh {s : State} (h : codeFresh s) (b : Button) : mayFollow s.txlog.getLast? s.code b 1 := by
  cases hlast : s.txlog.getLast? with
  | none => rfl
  | some p => exact .inl ⟨h p hlast, rfl⟩

/-- A rule that runs on from a fresh code leaves the codes in order. -/
theorem RuleRan.codesInOrder {s t : State} (h : RuleRan s t) (hfresh : codeFresh s) (hs : inOrder none s.txlog) :
    t.CodesInOrder := by
  refine ⟨h.txlog ▸ hs, ?_⟩
  have hfresh' : codeFresh t := by
    unfold codeFresh
    rwa [h.txlog, h.code]
  have hphase := h.phase
  unfold codeAgrees
  cases hp : t.phase with
  | tx ctx b rep f =>
    rw [hp] at hphase
    obtain rfl := of_decide_eq_true hphase
    exact mayFollow_of_codeFresh hfresh' b
  | wait | guard | idle => exact hfresh'
  | reset | persist | halted => rw [hp] at hphase; cases hphase

/-- Where no burst is in progress the code is fresh. -/
theorem codeFresh_of_resting {s : State} (h : codeAgrees s) (hp : restsBetweenBursts s.phase = true) :
    codeFresh s := by
  unfold codeAgrees at h
  cases hphase : s.phase with
  | wait | guard | idle => rw [hphase] at h; exact h
  | tx | persist | reset | halted => rw [hphase] at hp; cases hp

/-- A burst's commit makes the code fresh: it is one above that of the burst's last entry. -/
theorem codeFresh_commit {s : State} {ctx : Ctx} {new : U32} {r : BurstResult} (hl : s.Legal)
    (hp : s.phase = .persist ctx new r) (h : codeAgrees s) (a : Answer) : codeFresh (commit new a s) := by
  obtain ⟨-, hcode, rfl, -⟩ := (legal_persist_iff hp).mp hl
  simp only [codeAgrees, hp] at h
  obtain ⟨p, hlast, hsame⟩ := h
  intro p' hlast'
  rw [commit_txlog, hlast] at hlast'
  obtain rfl := Option.some.inj hlast'
  rw [commit_code, hsame]
  rw [hsame] at hcode
  bv_omega

theorem Sent.codesInOrder {ctx : Ctx} {b : Button} {rep : Nat} {f : Frame} {a : Answer} {s t : State} (hl : s.Legal)
    (hp : s.phase = .tx ctx b rep f) (h : Sent ctx b rep f a s t) (hs : s.CodesInOrder) : t.CodesInOrder := by
  obtain ⟨-, -, -, -, henc⟩ := (legal_tx_iff hp).mp hl
  obtain ⟨hlog, hagrees⟩ := hs
  simp only [codeAgrees, hp] at hagrees
  have hlog' : inOrder none (logged b rep f a s).txlog :=
    (inOrder_concat none s.txlog _).mpr ⟨hlog, by rwa [Option.or_none]⟩
  have hlast : (logged b rep f a s).txlog.getLast? = some ⟨s.code, b, rep, serialize f, a⟩ := List.getLast?_concat ..
  cases h with
  | next f' ha =>
    refine ⟨hlog', ?_⟩
    simp only [codeAgrees, enterPhase_phase, enterPhase_txlog, hlast]
    exact .inr ⟨rfl, rfl, rfl, ha⟩
  | invalid henc' => exact absurd henc' (encodeFrame_ne_invalid henc)
  | ended r => exact ⟨hlog', _, hlast, rfl⟩
  | exhausted => exact ⟨hlog', _, hlast, rfl⟩

/-- The Host's moves keep the codes in order. -/
theorem KeepsRegisters.codesInOrder {s t : State} (h : KeepsRegisters s t) (hs : s.CodesInOrder) :
    t.CodesInOrder := by
  unfold State.CodesInOrder codeAgrees at hs ⊢
  rwa [h.txlog, h.code, h.phase]

theorem Effect.codesInOrder {s t : State} (hl : s.Legal) (h : Effect s t) (hs : s.CodesInOrder) : t.CodesInOrder := by
  cases h with
  | none h => exact h.codesInOrder hs
  | ruled hp h => exact h.codesInOrder (codeFresh_of_resting hs.2 hp) hs.1
  | sent ctx b rep f a hp h => exact h.codesInOrder hl hp hs
  | committed ctx new r a hp h =>
    exact h.codesInOrder (codeFresh_commit hl hp hs.2 a) (by rw [commit_txlog]; exact hs.1)

/-- Settles O51: a burst's repeats follow each other, its commit makes the code fresh, and at `RESET` the log is empty. -/
theorem stepKeepsCodesInOrder : Obligations.StepKeepsCodesInOrder := by
  intro s s' hl hs hrestart h
  refine step_keeps_of_legal (fun _ _ hl he => he.codesInOrder hl) (fun read u hp _ hran => ?start)
    (fun es he => absurd (congrArg List.head? he) hrestart) hl hs h
  case start =>
    have hempty : s.txlog = [] := by
      have hagrees := hs.2
      rwa [codeAgrees, hp] at hagrees
    refine hran.codesInOrder (fun p hlast => ?_) hs.1
    rw [show (load read s).txlog = [] from hempty] at hlast
    cases hlast

/-! ### No code is used by two bursts -/

/-- `q` comes after `p`: in a later burst, with a higher code, or as a later repeat of `p`'s burst. -/
def comesAfter (p q : TxEntry) : Prop :=
  p.code.toNat < q.code.toNat ∨ (q.code = p.code ∧ q.button = p.button ∧ p.rep < q.rep)

theorem comesAfter_trans {p q r : TxEntry} (h : comesAfter p q) (h' : comesAfter q r) : comesAfter p r := by
  rcases h with h | ⟨hcode, hbutton, hrep⟩ <;> rcases h' with h' | ⟨hcode', hbutton', hrep'⟩
  · exact .inl (h.trans h')
  · exact .inl (hcode' ▸ h)
  · exact .inl (hcode ▸ h')
  · exact .inr ⟨hcode'.trans hcode, hbutton'.trans hbutton, hrep.trans hrep'⟩

theorem comesAfter_of_mayFollow {p q : TxEntry} (h : mayFollow (some p) q.code q.button q.rep) : comesAfter p q := by
  rcases h with ⟨hcode, -⟩ | ⟨hcode, hbutton, hrep, -⟩
  · exact .inl (by omega)
  · exact .inr ⟨hcode, hbutton, by omega⟩

/-- In a log in order every entry comes after all those before it. -/
theorem pairwise_comesAfter {prev : Option TxEntry} {l : List TxEntry} (h : inOrder prev l) :
    l.Pairwise comesAfter ∧ ∀ p, prev = some p → ∀ q ∈ l, comesAfter p q := by
  induction l generalizing prev with
  | nil => exact ⟨.nil, fun _ _ q hq => by cases hq⟩
  | cons e l ih =>
    obtain ⟨hfollow, hrest⟩ := h
    obtain ⟨hpairs, hafter⟩ := ih hrest
    refine ⟨.cons (hafter e rfl) hpairs, ?_⟩
    rintro p rfl q hq
    have he := comesAfter_of_mayFollow hfollow
    rcases List.mem_cons.mp hq with rfl | hmem
    · exact he
    · exact comesAfter_trans he (hafter e rfl q hmem)

/-- Settles O52: of two entries the later comes after the earlier, and with one code it is a repeat of its burst. -/
theorem codesNeverReused : Obligations.CodesNeverReused := by
  intro s i j p q hs hij hp hq hcode
  obtain ⟨hi, rfl⟩ := List.getElem?_eq_some_iff.mp hp
  obtain ⟨hj, rfl⟩ := List.getElem?_eq_some_iff.mp hq
  rcases List.pairwise_iff_getElem.mp (pairwise_comesAfter hs.1).1 i j hi hj hij with hlt | ⟨-, hbutton, hrep⟩
  · exact absurd (congrArg BitVec.toNat hcode) hlt.ne
  · exact ⟨hbutton.symm, hrep⟩

/-! ### The durable cell is not ahead -/

theorem storedBehind_of_eq {s t : State} (hcode : t.code = s.code) (hstored : t.stored = s.stored)
    (h : s.StoredBehind) : t.StoredBehind := by
  unfold State.StoredBehind at h ⊢
  rwa [hcode, hstored]

theorem Quiet.storedBehind {s t : State} (h : Quiet s t) : s.StoredBehind → t.StoredBehind :=
  storedBehind_of_eq h.code h.stored

/-- A transmission leaves the code and the durable cell. -/
theorem Sent.code_stored {ctx : Ctx} {b : Button} {rep : Nat} {f : Frame} {a : Answer} {s t : State}
    (h : Sent ctx b rep f a s t) : t.code = s.code ∧ t.stored = s.stored := by
  cases h with
  | next => exact ⟨rfl, rfl⟩
  | invalid => exact ⟨(returnTo_ruleRan ctx _ _).code, (returnTo_ruleRan ctx _ _).stored⟩
  | ended => exact ⟨rfl, rfl⟩
  | exhausted => exact ⟨rfl, rfl⟩

/-- A commit raises the code by one, and the durable cell to it at most. -/
theorem storedBehind_commit {s : State} {ctx : Ctx} {new : U32} {r : BurstResult} (hl : s.Legal)
    (hp : s.phase = .persist ctx new r) (h : s.StoredBehind) (a : Answer) : (commit new a s).StoredBehind := by
  obtain ⟨-, hcode, rfl, -⟩ := (legal_persist_iff hp).mp hl
  intro v hv
  rw [commit_code]
  rw [commit_stored] at hv
  split_ifs at hv
  · exact (congrArg BitVec.toNat (Option.some.inj hv)).ge
  · have hle := h v hv
    bv_omega

theorem Effect.storedBehind {s t : State} (hl : s.Legal) (h : Effect s t) (hs : s.StoredBehind) : t.StoredBehind := by
  cases h with
  | none h => exact h.toQuiet.storedBehind hs
  | ruled _ h => exact h.storedBehind hs
  | sent ctx b rep f a hp h =>
    obtain ⟨hcode, hstored⟩ := h.code_stored
    exact storedBehind_of_eq hcode hstored hs
  | committed ctx new r a hp h => exact h.storedBehind (storedBehind_commit hl hp hs a)

/-- What is loaded from the durable cell is not behind it. -/
theorem storedBehind_of_code_eq {s : State} (cfg : Config) (h : s.code = s.stored.getD cfg.startCode) :
    s.StoredBehind := by
  intro v hv
  rw [h, hv]
  exact le_rfl

/-- Settles O53: a commit keeps `STORED` at `CODE` at most, and startup and a restart load `STORED` itself. -/
theorem stepKeepsStoredBehind : Obligations.StepKeepsStoredBehind := by
  intro s s' hl hs hreadable h
  refine step_keeps_of_legal (fun _ _ hl he => he.storedBehind hl) (fun read u hp hread hran => ?start)
    (fun _ _ => storedBehind_of_code_eq s.cfg rfl) hl hs h
  case start =>
    rcases hread with rfl | ⟨-, hunreadable⟩
    · exact hran.storedBehind (storedBehind_of_code_eq s.cfg rfl)
    · exact absurd hunreadable (hreadable hp)

/-! ### The reset state -/

theorem resetWith_logFaithful (cfg : Config) (stored : Option U32) : (State.resetWith cfg stored).LogFaithful :=
  fun _ he => by cases he

theorem resetWith_codesInOrder (cfg : Config) (stored : Option U32) : (State.resetWith cfg stored).CodesInOrder :=
  ⟨trivial, rfl⟩

theorem resetWith_storedBehind (cfg : Config) (stored : Option U32) : (State.resetWith cfg stored).StoredBehind :=
  storedBehind_of_code_eq cfg rfl

/-- The worked examples' configuration is legal. -/
theorem configWf_example : configWf Config.example = true := by decide +kernel

/-- Settles O48: the reset state of each configuration, that of `State.reset` being one. -/
theorem resetLegal : Obligations.ResetLegal :=
  ⟨fun cfg stored => ⟨fun h => resetWith_legal h stored, resetWith_logFaithful cfg stored,
      resetWith_codesInOrder cfg stored, resetWith_storedBehind cfg stored⟩,
    resetWith_legal configWf_example none, resetWith_logFaithful _ none, resetWith_codesInOrder _ none,
    resetWith_storedBehind _ none⟩

/-! ### Which states step -/

/-- The Controller's own turn has a next state unless it has halted. -/
theorem step_next_of_ownTurn {s u : State} (hn : nextTurn s = ownTurn u) (hu : ∀ r, u.phase ≠ .halted r) :
    ∃ t, step s = .next t := by
  rcases ownTurn_cases u with h | ⟨-, h⟩ | ⟨c, q, -, -, h⟩ | h | ⟨r, hr, -⟩
  · exact ⟨_, by rw [step, hn, h]⟩
  · exact ⟨_, by rw [step, hn, h]⟩
  · obtain ⟨t, ht⟩ := exec_next c.toInstr (setQueue q u)
    exact ⟨t, by rw [step, hn, h]; exact ht⟩
  · exact ⟨_, by rw [step, hn, h]⟩
  · exact absurd hr (hu r)

/-- Where the next external move is not possible, or there is none, the turn is the Controller's own. -/
theorem nextTurn_eq_ownTurn {s : State} (h : ∀ e es, s.env = e :: es → accepts e s = false) :
    nextTurn s = ownTurn s := by
  unfold nextTurn
  cases henv : s.env with
  | nil => rfl
  | cons e es => simp [h e es henv]

/-- The turn of a halted Controller is a fault. -/
theorem step_of_halted {s : State} {r : HaltReason} (hp : s.phase = .halted r) (hturn : nextTurn s = ownTurn s) :
    step s = .fault .codeExhausted := by
  cases r
  simp only [step, hturn, ownTurn, hp]

/-- At the Driver's answer the step runs the frame that the decoder reads. -/
theorem step_of_decodeFrame {s : State} {ctx : Ctx} {b : Button} {rep : Nat} {f : Frame} {a : Answer}
    {es : List EnvEvent} {i : Instr} (hp : s.phase = .tx ctx b rep f) (henv : s.env = .driver a :: es)
    (hf : decodeFrame f = some i) : step s = exec i s := by
  simp [step, nextTurn, henv, accepts, frameTurn, hp, hf]

/-- The frame at the Driver in a legal state is a row, so it is run. -/
theorem step_next_of_legal_driver {s : State} {a : Answer} {es : List EnvEvent} (hl : s.Legal)
    (henv : s.env = .driver a :: es) (ha : accepts (.driver a) s = true) : ∃ t, step s = .next t := by
  cases hp : s.phase with
  | tx ctx b rep f =>
    obtain ⟨-, -, -, -, henc⟩ := (legal_tx_iff hp).mp hl
    obtain ⟨sn, e, k, hrow⟩ := decodeFrame_of_encodeFrame henc
    rw [step_of_decodeFrame hp henv hrow]
    exact exec_next _ s
  | _ => simp [accepts, hp] at ha

/-- An accepted external move of a legal state has a next state. -/
theorem step_next_of_accepts {s : State} {e : EnvEvent} {es : List EnvEvent} (hl : s.Legal) (henv : s.env = e :: es)
    (ha : accepts e s = true) : ∃ t, step s = .next t := by
  cases e with
  | driver a => exact step_next_of_legal_driver hl henv ha
  | proceed =>
    refine step_next_of_ownTurn (u := setEnv es s) (by simp [nextTurn, henv, ha]) fun r hr => ?_
    have hhalted : s.phase = .halted r := hr
    simp [accepts, canProceed, hhalted] at ha
  | _ => exact ⟨_, by simp only [step, nextTurn, henv, ha, if_true]; rfl⟩

/-- Settles O55: an accepted move has a next state, and without one only a halted Controller has none. -/
theorem legalStatesRun : Obligations.LegalStatesRun := by
  intro s hl
  by_cases hmove : ∀ e es, s.env = e :: es → accepts e s = false
  · cases hp : s.phase with
    | halted r => exact .inr ⟨by cases r; rfl, step_of_halted hp (nextTurn_eq_ownTurn hmove)⟩
    | _ => exact .inl (step_next_of_ownTurn (nextTurn_eq_ownTurn hmove) (by simp [hp]))
  · push Not at hmove
    obtain ⟨e, es, henv, ha⟩ := hmove
    exact .inl (step_next_of_accepts hl henv (by simpa using ha))

/-- The moves that are possible while the Controller is halted are the Host's. -/
theorem Moved.keepsRegisters_of_halted {s t : State} {r : HaltReason} (h : Moved s t) (hp : s.phase = .halted r) :
    KeepsRegisters s t := by
  cases h with
  | listed es => exact keepsRegisters_setEnv es s
  | delivered raw => exact keepsRegisters_deliverCommand raw s
  | reconnected => exact keepsRegisters_publish s
  | answered _ _ _ _ _ hp' => cases hp.symm.trans hp'
  | written _ _ _ _ hp' => cases hp.symm.trans hp'
  | elapsed _ _ hp' => cases hp.symm.trans hp'
  | guarded hp' => cases hp.symm.trans hp'
  | cancelled _ _ hp' => cases hp.symm.trans hp'

/-- Settles O17: of the moves of a run only the Host's are possible in `HALTED`, and startup and dispatch start in other
phases. -/
theorem haltedNeverSteps : Obligations.HaltedNeverSteps := by
  intro s r hp
  refine ⟨fun henv => step_of_halted hp (nextTurn_eq_ownTurn (by simp [henv])), fun t h hrestart => ?_⟩
  have hkeeps : KeepsRegisters s t := by
    refine step_keeps (P := KeepsRegisters s)
      (fun u v hm hu => hu.trans (hm.keepsRegisters_of_halted (hu.phase.trans hp))) ?start ?dispatch ?restart h
      (keepsRegisters_setEnv s.env s)
    case start => exact fun _ _ hp' => by cases hp.symm.trans hp'
    case dispatch => exact fun _ _ _ hp' => by cases hp.symm.trans hp'
    case restart => exact fun es he => absurd (congrArg List.head? he) hrestart
  exact ⟨hkeeps.phase, hkeeps.code, hkeeps.pos, hkeeps.known, hkeeps.moving, hkeeps.stored, hkeeps.txlog, hkeeps.cmdq⟩

end Sys2Proof.Proofs

/-! PROOFS. What a command leaves unchanged, over every list of external moves (43_cover_controller.md R175 to R181). -/

namespace Sys2Proof.Proofs

open Sys2Proof.Machine

/-- The command that a burst's context belongs to. -/
def ctxCommand : Ctx → Option Command
  | .startupRef => none
  | .cmdOpen => some .openCover
  | .cmdClose => some .closeCover
  | .cmdStop => some .stopCover
  | .spRehome t => some (.setPosition t)
  | .spDir t => some (.setPosition t)
  | .spStop t => some (.setPosition t)

/-- The phases that a command's rule can be in, from its first call to its end. -/
def phaseOf (c : Command) : Phase → Prop
  | .tx ctx _ _ _ => ctxCommand ctx = some c
  | .persist ctx _ _ => ctxCommand ctx = some c
  | .wait t _ => c = .setPosition t
  | .idle => True
  | .halted _ => True
  | .reset => False
  | .guard => False

/-- The values that a command can give `POS`. -/
def writesPos (cfg : Config) (c : Command) (p : BitVec 7) : Prop :=
  match c with
  | .openCover => p = openPos cfg
  | .stopCover => False
  | .closeCover => p = closedPos cfg
  | .setPosition t => p = refPos cfg ∨ p = t.setWidth 7

/-- `SET_POSITION` alone writes `MOVING` (10_state.md R24). -/
def writesMoving : Command → Bool
  | .openCover => false
  | .stopCover => false
  | .closeCover => false
  | .setPosition _ => true

/-- What a part of a command's rule does to the registers that this family names. -/
structure Runs (c : Command) (s t : State) : Prop where
  cfg : t.cfg = s.cfg
  cmdq : s.cmdq <+: t.cmdq
  pos : t.pos = s.pos ∨ writesPos s.cfg c t.pos
  moving : writesMoving c = false → t.moving = s.moving
  phase : phaseOf c t.phase

theorem Runs.trans {c : Command} {s t u : State} (h : Runs c s t) (h' : Runs c t u) : Runs c s u := by
  refine ⟨h'.cfg.trans h.cfg, h.cmdq.trans h'.cmdq, ?_, fun hc => (h'.moving hc).trans (h.moving hc), h'.phase⟩
  rcases h'.pos with hpos | hpos
  · exact hpos ▸ h.pos
  · exact .inr (h.cfg ▸ hpos)

/-! ### The ends of a command's bursts -/

theorem attempt_runs {c : Command} {ctx : Ctx} (hc : ctxCommand ctx = some c) (b : Button) (rep : Nat)
    {k : BurstResult → State → State} {s : State} (hk : ∀ r, Runs c s (k r s)) :
    Runs c s (attempt ctx b rep k s) := by
  rcases attempt_cases ctx b rep k s with ⟨f, -, h⟩ | ⟨-, h⟩ <;> rw [h]
  · exact ⟨rfl, List.prefix_rfl, .inl rfl, fun _ => rfl, hc⟩
  · exact hk _

/-- A full move writes `POS` to its own extreme or not at all. -/
theorem endMove_pos_cases (tr : Travel) (r : BurstResult) (s : State) :
    (endMove tr r s).pos = s.pos ∨ (endMove tr r s).pos = posOf s.cfg tr := by
  rw [endMove_pos]
  split_ifs
  · exact .inr rfl
  · exact .inl rfl

theorem endTravel_runs {tr : Travel} {c : Command} (r : BurstResult) (s : State)
    (hpos : writesPos s.cfg c (posOf s.cfg tr)) : Runs c s (endTravel tr c r s) :=
  ⟨endMove_cfg .., (endMove_cmdq tr r s).symm ▸ List.prefix_rfl,
    (endMove_pos_cases tr r s).imp_right fun h => (show (endTravel tr c r s).pos = _ from h) ▸ hpos,
    fun _ => endMove_moving .., trivial⟩

theorem endStop_runs (r : BurstResult) (s : State) : Runs .stopCover s (endStop r s) :=
  ⟨rfl, List.prefix_rfl, .inl rfl, fun _ => rfl, trivial⟩

theorem endFinalStop_runs (t : Byte) (r : BurstResult) (s : State) : Runs (.setPosition t) s (endFinalStop t r s) := by
  cases r with
  | ok => exact ⟨rfl, List.prefix_rfl, .inr (.inr rfl), Bool.noConfusion, trivial⟩
  | _ => exact ⟨rfl, List.prefix_rfl, .inl rfl, Bool.noConfusion, trivial⟩

theorem endDirection_runs (t : Byte) (r : BurstResult) (s : State) : Runs (.setPosition t) s (endDirection t r s) := by
  cases r with
  | ok => exact ⟨rfl, List.prefix_rfl, .inl rfl, Bool.noConfusion, rfl⟩
  | _ => exact ⟨rfl, List.prefix_rfl, .inl rfl, Bool.noConfusion, trivial⟩

theorem estimate_runs (t : Byte) (s : State) : Runs (.setPosition t) s (estimate t s) := by
  unfold estimate
  split_ifs
  · exact ⟨rfl, List.prefix_rfl, .inl rfl, Bool.noConfusion, trivial⟩
  · have hdir := attempt_runs (s := setMoving true s) (ctx := .spDir t) rfl (dirTo s.cfg s.pos t).button 1
      (k := endDirection t) fun r => endDirection_runs t r _
    exact ⟨hdir.cfg, hdir.cmdq, hdir.pos, Bool.noConfusion, hdir.phase⟩

/-- A re-homing move goes on from the state it leaves, whatever its phase. -/
theorem endRehome_runs (t : Byte) (r : BurstResult) (s : State) : Runs (.setPosition t) s (endRehome t r s) := by
  have hmove (u : State) (hu : Runs (.setPosition t) (endMove s.cfg.refButton r s) u) : Runs (.setPosition t) s u := by
    refine ⟨hu.cfg.trans (endMove_cfg ..), endMove_cmdq .. ▸ hu.cmdq, ?_, Bool.noConfusion, hu.phase⟩
    rcases hu.pos with hpos | hpos
    · rw [hpos]
      exact (endMove_pos_cases ..).imp_right .inl
    · exact .inr (endMove_cfg s.cfg.refButton r s ▸ hpos)
  cases r with
  | ok => exact hmove _ (estimate_runs t _)
  | _ => exact hmove _ ⟨rfl, List.prefix_rfl, .inl rfl, Bool.noConfusion, trivial⟩

theorem returnTo_runs {c : Command} {ctx : Ctx} (hc : ctxCommand ctx = some c) (r : BurstResult) (s : State) :
    Runs c s (returnTo ctx r s) := by
  cases ctx with
  | startupRef => cases hc
  | cmdOpen => cases hc; exact endTravel_runs r s rfl
  | cmdClose => cases hc; exact endTravel_runs r s rfl
  | cmdStop => cases hc; exact endStop_runs r s
  | spRehome t => cases hc; exact endRehome_runs t r s
  | spDir t => cases hc; exact endDirection_runs t r s
  | spStop t => cases hc; exact endFinalStop_runs t r s

/-! ### The moves of a command -/

/-- Where `MOVING` is not the command's to write, the end by `CodeExhausted` leaves it. -/
theorem movingAfterHalt_of_command {c : Command} {ctx : Ctx} (hc : ctxCommand ctx = some c)
    (hm : writesMoving c = false) (m : Bool) : movingAfterHalt ctx m = m := by
  cases ctx with
  | startupRef => cases hc
  | cmdOpen | cmdClose | cmdStop | spRehome => rfl
  | spDir | spStop => cases hc; cases hm

theorem Sent.runs {c : Command} {ctx : Ctx} {b : Button} {rep : Nat} {f : Frame} {a : Answer} {s t : State}
    (hc : ctxCommand ctx = some c) (h : Sent ctx b rep f a s t) : Runs c s t := by
  cases h with
  | next => exact ⟨rfl, List.prefix_rfl, .inl rfl, fun _ => rfl, hc⟩
  | invalid =>
    have hrule := returnTo_runs hc (.invalidCodeIndex s.code) (logged b rep f a s)
    exact ⟨hrule.cfg, hrule.cmdq, hrule.pos, hrule.moving, hrule.phase⟩
  | ended => exact ⟨rfl, List.prefix_rfl, .inl rfl, fun _ => rfl, hc⟩
  | exhausted => exact ⟨rfl, List.prefix_rfl, .inl rfl, fun hm => movingAfterHalt_of_command hc hm _, trivial⟩

theorem persisted_runs {c : Command} {ctx : Ctx} (hc : ctxCommand ctx = some c) (new : U32) (r : BurstResult)
    (a : Answer) (s : State) : Runs c s (persisted ctx new r a s) := by
  obtain ⟨hcfg, hcmdq, hpos, hmoving, hphase⟩ := returnTo_runs hc r (commit new a s)
  rw [commit_cfg] at hcfg hpos
  rw [commit_cmdq] at hcmdq
  rw [commit_pos] at hpos
  rw [commit_moving] at hmoving
  exact ⟨hcfg, hcmdq, hpos, hmoving, hphase⟩

theorem KeepsRegisters.runs {c : Command} {s t : State} (h : KeepsRegisters s t) (hp : phaseOf c s.phase) :
    Runs c s t := ⟨h.cfg, h.cmdq, .inl h.pos, fun _ => h.moving, h.phase ▸ hp⟩

/-- Every move within a command's rule is one of its own or leaves the rule where it is. -/
theorem Moved.runs {c : Command} {s t : State} (h : Moved s t) (hp : phaseOf c s.phase) : Runs c s t := by
  cases h with
  | listed es => exact (keepsRegisters_setEnv es s).runs hp
  | delivered raw => exact (keepsRegisters_deliverCommand raw s).runs hp
  | reconnected => exact (keepsRegisters_publish s).runs hp
  | answered ctx b rep f a hp' => exact (sent_transmitted ctx b rep f a s).runs (by rwa [hp'] at hp)
  | written ctx new r a hp' => exact persisted_runs (by rwa [hp'] at hp) new r a s
  | elapsed t d hp' =>
    rw [hp'] at hp
    subst hp
    exact attempt_runs rfl .btnStop 1 fun r => endFinalStop_runs t r s
  | guarded hp' => rw [hp'] at hp; exact hp.elim
  | cancelled t d hp' =>
    rw [hp'] at hp
    subst hp
    exact ⟨rfl, List.prefix_rfl, .inl rfl, Bool.noConfusion, trivial⟩

theorem beginCommand_runs (c : Command) (s : State) : Runs c s (beginCommand c s) := by
  cases c with
  | openCover => exact attempt_runs rfl _ _ fun r => returnTo_runs rfl r s
  | stopCover => exact attempt_runs rfl _ _ fun r => returnTo_runs rfl r s
  | closeCover => exact attempt_runs rfl _ _ fun r => returnTo_runs rfl r s
  | setPosition t =>
    simp only [beginCommand, beginSetPosition]
    split_ifs
    · exact ⟨rfl, List.prefix_rfl, .inl rfl, fun _ => rfl, trivial⟩
    · exact estimate_runs t s
    · exact attempt_runs rfl _ _ fun r => returnTo_runs rfl r s

/-- A command, run over any list of moves, keeps to its rule and extends the histories. -/
theorem exec_command_runs {c : Command} {s s' : State} (h : exec c.toInstr s = .next s') :
    Runs c s s' ∧ Extends s s' := by
  rw [exec_toInstr] at h
  obtain rfl := Host.Outcome.next.inj h
  exact settle_keeps (P := fun t => Runs c s t ∧ Extends s t)
    (fun t u hm ht => ⟨ht.1.trans (hm.runs ht.1.phase), ht.2.trans hm.effect.extends⟩) s.env
    ⟨beginCommand_runs c s, (beginCommand_ruleRan c s).extends⟩

/-- Settles O34: each clause is a register of the rule's frame, read off for the command at hand. -/
theorem commandFrame : Obligations.CommandFrame := by
  intro s s' c h
  obtain ⟨hruns, hext⟩ := exec_command_runs h
  refine ⟨hext.cfg, hext.txlog, hext.publog, hext.evlog, hruns.cmdq, ?stop, ?opening, ?closing, ?setting⟩
  case stop =>
    rintro rfl
    exact ⟨hruns.pos.resolve_right False.elim, hruns.moving rfl⟩
  case opening =>
    rintro rfl
    exact ⟨hruns.pos, hruns.moving rfl⟩
  case closing =>
    rintro rfl
    exact ⟨hruns.pos, hruns.moving rfl⟩
  case setting =>
    rintro t rfl
    exact hruns.pos

end Sys2Proof.Proofs

/-! PROOFS. The runs of the commands and of startup: each burst by its law, each rule's end by its equation
(43_cover_controller.md R172 to R181, 60_exceptions.md R220 to R225, 70_reset_and_hazards.md R250 to R253). -/

namespace Sys2Proof.Proofs

open Sys2Proof.Machine

/-! ### The start of a burst -/

/-- In both domains `ENCODE` answers every repeat of this code. -/
theorem encodes_of_inDomain {s : State} (h : inDomain s.cfg s.code = true) (b : Button) : encodes b s :=
  fun rep => encodeFrame_of_inDomain h s.cfg.serial b.code rep

/-- Outside a domain no burst starts: the rule goes on with the error. -/
theorem attempt_of_not_inDomain {s : State} (h : inDomain s.cfg s.code = false) (ctx : Ctx) (b : Button) (rep : Nat)
    (k : BurstResult → State → State) : attempt ctx b rep k s = k (.invalidCodeIndex s.code) s := by
  simp only [attempt, current, encodeFrame_of_not_inDomain h]

/-- A command that has concluded takes no external move. -/
theorem settle_concluded (rest : List EnvEvent) (c : Command) (st : Status) (s : State) :
    settle rest (concluded c st s) = concluded c st { s with env := rest } := by
  rw [settle_of_resting rfl]
  rfl

/-! ### The commands of one burst -/

/-- The rule of a command of one burst: its context, and its ends but that of a burst that goes through. -/
structure OneBurstRule (c : Command) (b : Button) (ctx : Ctx) : Prop where
  exec : ∀ s, exec c.toInstr s = .next (settle s.env (attempt ctx b 1 (returnTo ctx) s))
  moving : ctxMoving ctx = false
  invalid : ∀ code s, returnTo ctx (.invalidCodeIndex code) s = concluded c (.invalidCodeIndex code) s
  failed : ∀ code rep s,
    returnTo ctx (.driverFailure code rep) s = concluded c (.driverFailure code rep) { s with known := false }

theorem openRule : OneBurstRule .openCover .btnOpen .cmdOpen :=
  ⟨fun _ => rfl, rfl, fun _ _ => rfl, fun _ _ _ => rfl⟩

theorem stopRule : OneBurstRule .stopCover .btnStop .cmdStop :=
  ⟨fun _ => rfl, rfl, fun _ _ => rfl, fun _ _ _ => rfl⟩

theorem closeRule : OneBurstRule .closeCover .btnClose .cmdClose :=
  ⟨fun _ => rfl, rfl, fun _ _ => rfl, fun _ _ _ => rfl⟩

theorem oneBurstRule_of_oneBurst {c : Command} {b : Button} (h : oneBurst c = some b) :
    ∃ ctx, OneBurstRule c b ctx := by
  cases c with
  | openCover => exact ⟨_, Option.some.inj h ▸ openRule⟩
  | stopCover => exact ⟨_, Option.some.inj h ▸ stopRule⟩
  | closeCover => exact ⟨_, Option.some.inj h ▸ closeRule⟩
  | setPosition t => cases h

/-- A burst that goes through returns to the command's rule. -/
theorem OneBurstRule.exec_burst {c : Command} {b : Button} {ctx : Ctx} (hrule : OneBurstRule c b ctx) {s : State}
    (hdomain : inDomain s.cfg s.code = true) (hcode : s.code ≠ 0xFFFFFFFF#32) {a : Answer} {rest : List EnvEvent}
    (henv : s.env = burstAnswers a ++ rest) :
    Machine.exec c.toInstr s = .next (settle rest (returnTo ctx .ok
      { afterBurst b a s with phase := .persist ctx (s.code + 1#32) .ok })) := by
  rw [hrule.exec, henv, settle_burst (encodes_of_inDomain hdomain b) hcode]

/-- Settles O18: the burst goes through and `OPEN` concludes. -/
theorem openCompletes : Obligations.OpenCompletes := by
  intro s a rest hdomain hcode henv
  refine (openRule.exec_burst hdomain hcode henv).trans ?_
  rw [settle_of_resting rfl]
  rfl

/-- Settles O19: the burst goes through and `CLOSE` concludes. -/
theorem closeCompletes : Obligations.CloseCompletes := by
  intro s a rest hdomain hcode henv
  refine (closeRule.exec_burst hdomain hcode henv).trans ?_
  rw [settle_of_resting rfl]
  rfl

/-- Settles O20: the burst goes through and `STOP` concludes. -/
theorem stopCompletes : Obligations.StopCompletes := by
  intro s a rest hdomain hcode henv
  refine (stopRule.exec_burst hdomain hcode henv).trans ?_
  rw [settle_of_resting rfl]
  rfl

/-- Settles O30: the burst fails and the command concludes with the failure. -/
theorem driverFailureEndsCommand : Obligations.DriverFailureEndsCommand := by
  intro s c b n a rest hburst hn hdomain hcode henv
  obtain ⟨ctx, hrule⟩ := oneBurstRule_of_oneBurst hburst
  rw [hrule.exec, henv, settle_failedBurst (encodes_of_inDomain hdomain _) hcode ctx n hn, hrule.failed,
    settle_concluded]
  rfl

/-- Settles O15: the burst finds no next code, whether it went through or failed, and its context leaves `MOVING`. -/
theorem codeExhaustedHalts : Obligations.CodeExhaustedHalts := by
  intro s c b n rest hburst hcode hdomain
  obtain ⟨ctx, hrule⟩ := oneBurstRule_of_oneBurst hburst
  have hhalt (m : Nat) (hm : m < 6) := settle_exhaustedBurst (encodes_of_inDomain hdomain b) hcode ctx m hm rest
  simp only [movingAfterHalt_of_not_ctxMoving hrule.moving] at hhalt
  refine ⟨fun henv => ?_, fun hn henv => ?_⟩
  · rw [hrule.exec, henv, (hhalt 0 (by decide)).1]
    rfl
  · rw [hrule.exec, henv, (hhalt n hn).2, exhausted, ← List.append_assoc]

/-! ### The parts of SET_POSITION -/

theorem estimate_of_ne {s : State} {t : Byte} (h : s.pos.toNat ≠ t.toNat) :
    estimate t s = attempt (.spDir t) (dirTo s.cfg s.pos t).button 1 (returnTo (.spDir t)) (setMoving true s) :=
  if_neg (mt (delta_eq_zero_iff s.pos t).mp h)

theorem estimate_of_eq {s : State} {t : Byte} (h : s.pos.toNat = t.toNat) :
    estimate t s = concluded (.setPosition t) .ok s := if_pos ((delta_eq_zero_iff s.pos t).mpr h)

/-- From a known position `SET_POSITION` estimates at once. -/
theorem exec_setPosition_of_known {s : State} (hT : s.cfg.tTotal ≠ 0) (hk : s.known = true) (t : Byte) :
    exec (.setPosition t) s = .next (settle s.env (estimate t s)) := by
  rw [exec_setPosition, beginSetPosition, if_neg hT, if_pos hk]

/-- From an unknown position `SET_POSITION` re-homes first. -/
theorem exec_setPosition_of_unknown {s : State} (hT : s.cfg.tTotal ≠ 0) (hk : s.known = false) (t : Byte) :
    exec (.setPosition t) s =
      .next (settle s.env (attempt (.spRehome t) s.cfg.refButton.button 1 (returnTo (.spRehome t)) s)) := by
  rw [exec_setPosition, beginSetPosition, if_neg hT, if_neg (by simp [hk])]

/-- After a re-homing move that went through, `SET_POSITION` estimates from the reference position. -/
theorem exec_setPosition_rehomed {s : State} (hT : s.cfg.tTotal ≠ 0) (hk : s.known = false)
    (hdomain : inDomain s.cfg s.code = true) (hcode : s.code ≠ 0xFFFFFFFF#32) {a : Answer} {rest : List EnvEvent}
    (henv : s.env = burstAnswers a ++ rest) (t : Byte) :
    exec (.setPosition t) s = .next (settle rest (estimate t
      { rehomed a s with phase := .persist (.spRehome t) (s.code + 1#32) .ok })) := by
  rw [exec_setPosition_of_unknown hT hk, henv, settle_burst (encodes_of_inDomain hdomain _) hcode]
  rfl

/-- The wait of a `SET_POSITION` whose direction burst went through. -/
def waiting (t : Byte) (a : Answer) (s : State) : State :=
  { afterBurst (dirTo s.cfg s.pos t).button a s with moving := true, phase := .wait t (waitSeconds s.cfg s.pos t) }

section
variable {s : State} {t : Byte}

/-- A direction burst that goes through leads to the wait. -/
theorem settle_estimate (hne : s.pos.toNat ≠ t.toNat) (hdomain : inDomain s.cfg s.code = true)
    (hcode : s.code ≠ 0xFFFFFFFF#32) (a : Answer) (rest : List EnvEvent) :
    settle (burstAnswers a ++ rest) (estimate t s) = settle rest (waiting t a s) := by
  rw [estimate_of_ne hne, settle_burst (encodes_of_inDomain (s := setMoving true s) hdomain _) hcode]
  rfl

/-- A wait that elapses leads to the `STOP` burst. -/
theorem settle_estimate_elapsed (hne : s.pos.toNat ≠ t.toNat) (hdomain : inDomain s.cfg s.code = true)
    (hcode : s.code ≠ 0xFFFFFFFF#32) (a : Answer) (rest : List EnvEvent) :
    settle (burstAnswers a ++ .elapsed :: rest) (estimate t s) =
      settle rest (attempt (.spStop t) .btnStop 1 (returnTo (.spStop t)) (waiting t a s)) := by
  rw [settle_estimate hne hdomain hcode, settle_cons_of_accepts rfl EnvEvent.noConfusion rfl]
  rfl

/-- A failed direction burst ends the command. -/
theorem settle_estimate_failedDirection (hne : s.pos.toNat ≠ t.toNat) (hdomain : inDomain s.cfg s.code = true)
    (hcode : s.code ≠ 0xFFFFFFFF#32) {n : Nat} (hn : n < 6) (a : Answer) (rest : List EnvEvent) :
    settle (failedAnswers n a ++ rest) (estimate t s) = concluded (.setPosition t) (.driverFailure s.code (n + 1))
      { afterFailedBurst (dirTo s.cfg s.pos t).button n a s with known := false, moving := false, env := rest } := by
  rw [estimate_of_ne hne,
    settle_failedBurst (encodes_of_inDomain (s := setMoving true s) hdomain _) hcode _ n hn, settle_of_resting rfl]
  rfl

/-- A direction burst whose code is outside a domain ends the command. -/
theorem estimate_of_not_inDomain (hne : s.pos.toNat ≠ t.toNat) (hdomain : inDomain s.cfg s.code = false) :
    estimate t s = concluded (.setPosition t) (.invalidCodeIndex s.code) { s with moving := false } := by
  rw [estimate_of_ne hne, attempt_of_not_inDomain (s := setMoving true s) hdomain]
  rfl

section
variable (hne : s.pos.toNat ≠ t.toNat) (hdomain : inDomain s.cfg s.code = true) (hcode : s.code ≠ 0xFFFFFFFF#32)
  (a₁ a₂ : Answer) (rest : List EnvEvent)
include hne hdomain hcode

/-- A `STOP` burst that goes through ends the command at its target. -/
theorem settle_estimate_completes (hdomain' : inDomain s.cfg (s.code + 1#32) = true)
    (hcode' : s.code + 1#32 ≠ 0xFFFFFFFF#32) :
    settle (burstAnswers a₁ ++ .elapsed :: (burstAnswers a₂ ++ rest)) (estimate t s) =
      concluded (.setPosition t) .ok
        { afterBurst .btnStop a₂ (afterBurst (dirTo s.cfg s.pos t).button a₁ s) with
          pos := t.setWidth 7, known := true, moving := false, env := rest } := by
  rw [settle_estimate_elapsed hne hdomain hcode,
    settle_burst (encodes_of_inDomain (s := waiting t a₁ s) hdomain' _) hcode', settle_of_resting rfl]
  rfl

/-- A failed `STOP` burst ends the command where the estimate started. -/
theorem settle_estimate_failedStop (hdomain' : inDomain s.cfg (s.code + 1#32) = true)
    (hcode' : s.code + 1#32 ≠ 0xFFFFFFFF#32) {n : Nat} (hn : n < 6) :
    settle (burstAnswers a₁ ++ .elapsed :: (failedAnswers n a₂ ++ rest)) (estimate t s) =
      concluded (.setPosition t) (.driverFailure (s.code + 1#32) (n + 1))
        { afterFailedBurst .btnStop n a₂ (afterBurst (dirTo s.cfg s.pos t).button a₁ s) with
          known := false, moving := false, env := rest } := by
  rw [settle_estimate_elapsed hne hdomain hcode,
    settle_failedBurst (encodes_of_inDomain (s := waiting t a₁ s) hdomain' _) hcode' _ n hn, settle_of_resting rfl]
  rfl

/-- A `STOP` burst whose code is outside a domain ends the command where the estimate started. -/
theorem settle_estimate_invalidStop (hdomain' : inDomain s.cfg (s.code + 1#32) = false) :
    settle (burstAnswers a₁ ++ .elapsed :: rest) (estimate t s) =
      concluded (.setPosition t) (.invalidCodeIndex (s.code + 1#32))
        { afterBurst (dirTo s.cfg s.pos t).button a₁ s with known := false, moving := false, env := rest } := by
  rw [settle_estimate_elapsed hne hdomain hcode, attempt_of_not_inDomain (s := waiting t a₁ s) hdomain',
    settle_of_resting rfl]
  rfl

end

end

/-! ### SET_POSITION as a whole -/

/-- Two codes below the top of the range there is a code for each of two bursts. -/
theorem two_codes_of_lt {code : U32} (h : code.toNat < 0xFFFFFFFE) :
    code ≠ 0xFFFFFFFF#32 ∧ code + 1#32 ≠ 0xFFFFFFFF#32 := by
  constructor <;> bv_omega

/-- Three codes below the top of the range there is a code for each of three bursts. -/
theorem three_codes_of_lt {code : U32} (h : code.toNat < 0xFFFFFFFD) :
    code ≠ 0xFFFFFFFF#32 ∧ code + 1#32 ≠ 0xFFFFFFFF#32 ∧ code + 1#32 + 1#32 ≠ 0xFFFFFFFF#32 := by
  refine ⟨?_, ?_, ?_⟩ <;> bv_omega

theorem code_add_two (code : U32) : code + 2#32 = code + 1#32 + 1#32 := (BitVec.add_assoc code 1#32 1#32).symm

/-- Settles O21: the estimate from a known position completes. -/
theorem setPositionCompletes : Obligations.SetPositionCompletes := by
  intro s t a₁ a₂ rest hT hk _ hne hdomain hdomain' hlt henv
  obtain ⟨hcode, hcode'⟩ := two_codes_of_lt hlt
  rw [exec_setPosition_of_known hT hk, henv, settle_estimate_completes hne hdomain hcode a₁ a₂ rest hdomain' hcode']

/-- Settles O23: at the target the estimate concludes at once. -/
theorem setPositionAtTarget : Obligations.SetPositionAtTarget := by
  intro s t hT hk heq
  rw [exec_setPosition_of_known hT hk, estimate_of_eq heq, settle_concluded]

/-- Settles O24: the estimate from the reference position completes. -/
theorem setPositionRehomes : Obligations.SetPositionRehomes := by
  intro s t a₁ a₂ a₃ rest hT hk _ hne hdomain hdomain' hdomain'' hlt henv
  obtain ⟨hcode, hcode', hcode''⟩ := three_codes_of_lt hlt
  rw [code_add_two] at hdomain''
  rw [exec_setPosition_rehomed hT hk hdomain hcode henv,
    settle_estimate_completes (s := { rehomed a₁ s with phase := _ }) hne hdomain' hcode' a₂ a₃ rest hdomain'' hcode'']
  rfl

/-- Settles O25: at the reference position the estimate concludes at once. -/
theorem setPositionToReference : Obligations.SetPositionToReference := by
  intro s t a rest hT hk heq hdomain hcode henv
  rw [exec_setPosition_rehomed hT hk hdomain hcode henv, estimate_of_eq (by exact heq), settle_concluded]
  rfl

/-- The distance to the target, as a number of whole percents. -/
theorem delta_eq_abs (pos : BitVec 7) (t : Byte) : (delta pos t : Rat) = |(pos.toNat : Rat) - t.toNat| := by
  rcases le_total pos.toNat t.toNat with h | h
  · rw [abs_of_nonpos (sub_nonpos.mpr (Nat.cast_le.mpr h)), delta, Nat.sub_eq_zero_of_le h, Nat.zero_add,
      Nat.cast_sub h, neg_sub]
  · rw [abs_of_nonneg (sub_nonneg.mpr (Nat.cast_le.mpr h)), delta, Nat.sub_eq_zero_of_le h, Nat.add_zero,
      Nat.cast_sub h]

/-- Settles O22: the direction burst leads to the wait, whose label is the exact share of the travel time. -/
theorem setPositionWaits : Obligations.SetPositionWaits := by
  intro s t a hT hk _ hne hempty hdomain hcode henv
  refine ⟨waitSeconds s.cfg s.pos t, by rw [waitSeconds, delta_eq_abs]; ring, ?_⟩
  rw [exec_setPosition_of_known hT hk, henv, ← List.append_nil (burstAnswers a), settle_estimate hne hdomain hcode]
  have hstays : cancelIfQueued (setEnv [] (waiting t a s)) = setEnv [] (waiting t a s) := by
    have hcmdq : (setEnv [] (waiting t a s)).cmdq = [] := hempty
    rcases cancelIfQueued_cases (setEnv [] (waiting t a s)) with h | ⟨-, -, -, hq, -⟩
    · exact h
    · exact absurd hcmdq hq
  rw [settle, hstays]
  rfl

/-- A wait that finds a command queued is cancelled where the Controller moves next or nothing more is listed. -/
theorem cancelIfQueued_of_wait {s : State} {t : Byte} {d : Rat} (hp : s.phase = .wait t d) (hq : s.cmdq ≠ []) :
    cancelIfQueued s = concluded (.setPosition t) .cancelled { s with known := false, moving := false } := by
  simp only [cancelIfQueued, hp, List.isEmpty_iff, hq, if_false]
  rfl

/-- Settles O27: the wait finds the command in the queue, or admission puts it there. -/
theorem setPositionCancelled : Obligations.SetPositionCancelled := by
  intro s t a rest hT hk _ hne hdomain hcode
  refine ⟨fun hq henv => ?queued, fun raw c hraw hroom henv => ?delivered⟩
  case queued =>
    have hproceed : accepts .proceed (waiting t a s) = true := by
      simpa [accepts, canProceed, waiting, afterBurst] using hq
    rw [exec_setPosition_of_known hT hk, henv, settle_estimate hne hdomain hcode,
      settle_cons_of_accepts rfl EnvEvent.noConfusion hproceed, react, cancelIfQueued_of_wait rfl (by exact hq),
      settle_concluded]
    rfl
  case delivered =>
    have hadmitted : deliverCommand raw (waiting t a s) = enqueue c (waiting t a s) := by
      simp only [deliverCommand, hraw]
      rfl
    rw [exec_setPosition_of_known hT hk, henv, settle_estimate hne hdomain hcode,
      settle_cons_of_accepts rfl EnvEvent.noConfusion (by exact hroom), react, hadmitted, settle,
      cancelIfQueued_of_wait rfl (by simp)]
    rfl

/-- Settles O28: the error concludes the rule of a command of one burst, the estimate, and the re-homing move. -/
theorem invalidCodeEndsCommand : Obligations.InvalidCodeEndsCommand := by
  intro s hdomain
  refine ⟨fun c b hburst => ?burst, fun t hT hk hne => ?known, fun t hT hk => ?unknown⟩
  case burst =>
    obtain ⟨ctx, hrule⟩ := oneBurstRule_of_oneBurst hburst
    rw [hrule.exec, attempt_of_not_inDomain hdomain, hrule.invalid, settle_concluded]
  case known =>
    rw [exec_setPosition_of_known hT hk, estimate_of_not_inDomain hne hdomain, settle_concluded]
  case unknown =>
    rw [exec_setPosition_of_unknown hT hk, attempt_of_not_inDomain hdomain, settle_of_resting rfl]
    rfl

/-- Settles O29: the error ends the estimate at its `STOP` burst or at its direction burst, from a known position or from
the reference position. -/
theorem invalidCodeEndsLaterBurst : Obligations.InvalidCodeEndsLaterBurst := by
  intro s t a₁ a₂ rest hT _ hdomain hlt
  obtain ⟨hcode, hcode'⟩ := two_codes_of_lt hlt
  refine ⟨fun hk hne hdomain' henv => ?knownStop, fun hk hne hdomain' henv => ?direction,
    fun hk hne hdomain' hdomain'' henv => ?rehomedStop⟩
  case knownStop =>
    rw [exec_setPosition_of_known hT hk, henv, settle_estimate_invalidStop hne hdomain hcode a₁ rest hdomain']
  case direction =>
    rw [exec_setPosition_rehomed hT hk hdomain hcode henv,
      estimate_of_not_inDomain (s := { rehomed a₁ s with phase := _ }) hne hdomain', settle_concluded]
    rfl
  case rehomedStop =>
    rw [code_add_two] at hdomain'' ⊢
    rw [exec_setPosition_rehomed hT hk hdomain hcode henv,
      settle_estimate_invalidStop (s := { rehomed a₁ s with phase := _ }) hne hdomain' hcode' a₂ rest hdomain'']
    rfl

/-- Settles O31: the failure ends the estimate at its direction burst or at its `STOP` burst, from a known position or
from the reference position, or it ends the re-homing move. -/
theorem driverFailureEndsSetPosition : Obligations.DriverFailureEndsSetPosition := by
  intro s t n a₁ a₂ a₃ rest hT _ hn hdomain hlt
  obtain ⟨hcode, hcode'⟩ := two_codes_of_lt hlt
  refine ⟨fun hk hne henv => ?knownDirection, fun hk hne hdomain' henv => ?knownStop, fun hk henv => ?rehoming,
    fun hk hne hdomain' henv => ?rehomedDirection, fun hk hne hdomain' hdomain'' hlt' henv => ?rehomedStop⟩
  case knownDirection =>
    rw [exec_setPosition_of_known hT hk, henv, settle_estimate_failedDirection hne hdomain hcode hn]
  case knownStop =>
    rw [exec_setPosition_of_known hT hk, henv,
      settle_estimate_failedStop hne hdomain hcode a₁ a₂ rest hdomain' hcode' hn]
  case rehoming =>
    rw [exec_setPosition_of_unknown hT hk, henv,
      settle_failedBurst (encodes_of_inDomain hdomain _) hcode _ n hn, settle_of_resting rfl]
    rfl
  case rehomedDirection =>
    rw [exec_setPosition_rehomed hT hk hdomain hcode henv,
      settle_estimate_failedDirection (s := { rehomed a₁ s with phase := _ }) hne hdomain' hcode' hn]
    rfl
  case rehomedStop =>
    obtain ⟨-, -, hcode''⟩ := three_codes_of_lt hlt'
    rw [code_add_two] at hdomain'' ⊢
    rw [exec_setPosition_rehomed hT hk hdomain hcode henv,
      settle_estimate_failedStop (s := { rehomed a₁ s with phase := _ }) hne hdomain' hcode' a₂ a₃ rest hdomain'' hcode''
        hn]
    rfl

/-- Settles O16: the burst that finds no next code is the direction burst, the `STOP` burst or the re-homing burst. -/
theorem codeExhaustedHaltsSetPosition : Obligations.CodeExhaustedHaltsSetPosition := by
  intro s t n a rest hT _ hn htop oks errs sent failed dir
  refine ⟨fun hcode hk hne => ?direction, fun hcode hdomain hk hne => ?final, fun hcode hk => ?rehoming⟩
  case direction =>
    have hencodes : encodes dir (setMoving true s) := encodes_of_inDomain (by exact hcode ▸ htop) dir
    obtain ⟨hsent, hfailed⟩ := settle_exhaustedBurst hencodes hcode (.spDir t) n hn rest
    rw [exec_setPosition_of_known hT hk, estimate_of_ne hne]
    refine ⟨fun henv => ?_, fun henv => ?_⟩
    · rw [henv, hsent]
      simp only [setMoving_cfg, setMoving_code, hcode]
      rfl
    · rw [henv, hfailed]
      simp only [setMoving_cfg, setMoving_code, hcode]
      rfl
  case final =>
    have hcode' : (waiting t a s).code = 0xFFFFFFFF#32 := (congrArg (· + 1#32) hcode).trans (by decide)
    have hencodes : encodes .btnStop (waiting t a s) := encodes_of_inDomain (by rw [hcode']; exact htop) _
    obtain ⟨hsent, hfailed⟩ := settle_exhaustedBurst hencodes hcode' (.spStop t) n hn rest
    have hne_top : s.code ≠ 0xFFFFFFFF#32 := by rw [hcode]; decide
    have hdomain' : inDomain s.cfg s.code = true := hcode ▸ hdomain
    rw [exec_setPosition_of_known hT hk]
    refine ⟨fun henv => ?_, fun henv => ?_⟩
    · rw [henv, settle_estimate_elapsed hne hdomain' hne_top, hsent, hcode']
      rfl
    · rw [henv, settle_estimate_elapsed hne hdomain' hne_top, hfailed, hcode']
      rfl
  case rehoming =>
    have hencodes : encodes s.cfg.refButton.button s := encodes_of_inDomain (hcode ▸ htop) _
    obtain ⟨hsent, hfailed⟩ := settle_exhaustedBurst hencodes hcode (.spRehome t) n hn rest
    rw [exec_setPosition_of_unknown hT hk]
    refine ⟨fun henv => ?_, fun henv => ?_⟩
    · rw [henv, hsent, hcode]
      rfl
    · rw [henv, hfailed, hcode]
      rfl

end Sys2Proof.Proofs

/-! PROOFS. The step in each phase: what is fetched, what an external move does, what waits; and the runs of startup
(43_cover_controller.md R180, R186, R187, 70_reset_and_hazards.md R250 to R255). -/

namespace Sys2Proof.Proofs

open Sys2Proof.Machine

/-! ### The Controller's own turn -/

/-- Where the turn is that of an idle Controller, the step runs the command at the head of `CMDQ`. -/
theorem step_of_ownTurn_idle {s u : State} {c : Command} {q : List Command} (hturn : nextTurn s = ownTurn u)
    (hp : u.phase = .idle) (hq : u.cmdq = c :: q) : step s = exec c.toInstr (setQueue q u) := by
  simp only [step, hturn, ownTurn, hp, hq]

/-- Where the Controller moves next and can, the turn is its own. -/
theorem nextTurn_proceed {s : State} {es : List EnvEvent} (henv : s.env = .proceed :: es)
    (hcan : canProceed s = true) : nextTurn s = ownTurn (setEnv es s) := by
  simp [nextTurn, henv, accepts, hcan]

/-- With no external move to come the turn is the Controller's own. -/
theorem nextTurn_nil {s : State} (henv : s.env = []) : nextTurn s = ownTurn s :=
  nextTurn_eq_ownTurn (by simp [henv])

/-- Where the next external move is not possible the turn is the Controller's own, and the move stays listed. -/
theorem nextTurn_blocked {s : State} {e : EnvEvent} {es : List EnvEvent} (henv : s.env = e :: es)
    (ha : accepts e s = false) : nextTurn s = ownTurn s := by
  refine nextTurn_eq_ownTurn fun e' es' h => ?_
  obtain ⟨rfl, -⟩ := List.cons.inj (henv.symm.trans h)
  exact ha

/-- The phases in which the Controller waits, for an answer, the Timer or a command (60_exceptions.md R236). -/
def Waits (s : State) : Prop :=
  (∃ ctx b rep f, s.phase = .tx ctx b rep f) ∨ (∃ ctx new r, s.phase = .persist ctx new r) ∨ s.phase = .guard ∨
    (s.cmdq = [] ∧ (s.phase = .idle ∨ ∃ t d, s.phase = .wait t d))

/-- A Controller that waits has no move of its own. -/
theorem ownTurn_of_waits {s : State} (h : Waits s) : ownTurn s = .move s := by
  rcases h with ⟨ctx, b, rep, f, hp⟩ | ⟨ctx, new, r, hp⟩ | hp | ⟨hq, hp | ⟨t, d, hp⟩⟩
  · simp only [ownTurn, hp]
  · simp only [ownTurn, hp]
  · simp only [ownTurn, hp]
  · simp only [ownTurn, hp, hq]
  · simp [ownTurn, hp, cancelIfQueued, hq]

/-- A wait with a command queued is cancelled by the Controller's own turn. -/
theorem ownTurn_of_wait {s : State} {t : Byte} {d : Rat} (hp : s.phase = .wait t d) (hq : s.cmdq ≠ []) :
    ownTurn s = .move (concluded (.setPosition t) .cancelled { s with known := false, moving := false }) := by
  simp only [ownTurn, hp, cancelIfQueued_of_wait hp hq]

/-- At `RESET` the Controller's own turn is startup. -/
theorem step_of_ownTurn_reset {s : State} (hturn : nextTurn s = ownTurn s) (hp : s.phase = .reset) :
    step s = .next (settle s.env (beginStartup s.stored s)) := by
  simp only [step, hturn, ownTurn, hp]

/-- Settles O35: with nothing listed, with the Controller next, and with a move that is not possible, the turn is the
Controller's own. -/
theorem stepRunsQueuedCommand : Obligations.StepRunsQueuedCommand := by
  intro s c q hp hq
  refine ⟨fun henv => step_of_ownTurn_idle (nextTurn_nil henv) hp hq,
    fun es henv => step_of_ownTurn_idle (nextTurn_proceed henv ?_) hp hq,
    fun e es henv ha => step_of_ownTurn_idle (nextTurn_blocked henv ha) hp hq⟩
  simp [canProceed, hp, hq]

/-- Settles O36: the step at the Driver's answer is the frame's. -/
theorem stepRunsFrame : Obligations.StepRunsFrame :=
  fun _ _ _ _ _ _ _ _ hp henv hf => step_of_decodeFrame hp henv hf

/-- Settles O39: the turn is the Controller's own, and while it waits it has no move. -/
theorem waitingKeepsState : Obligations.WaitingKeepsState := by
  intro s henv hwaits
  rw [step, nextTurn_nil henv, ownTurn_of_waits hwaits]

/-! ### The external moves -/

/-- Settles O14: the answer is the next step, a commit and the return to the rule. -/
theorem writeAnswerCommits : Obligations.WriteAnswerCommits := by
  intro s ctx new r a es hp henv
  have hstep : step s = .next (returnTo ctx r (commit new a (setEnv es s))) := by
    simp [step, nextTurn, henv, accepts, hp, react, persisted]
  rw [hstep]
  cases a with
  | ok => simp [commit, writeStored, setCode, setEnv]
  | err => rfl

/-- Settles O41: the delivery is the next step, and admission goes by the phase. -/
theorem deliveryAdmitted : Obligations.DeliveryAdmitted := by
  intro s raw c es hroom henv hraw
  have hstep := step_deliver ((hasRoom_iff s).mpr hroom) henv
  refine ⟨fun hwindow => ?_, fun hwindow => ?_⟩
  · have hignored : deliverCommand raw (setEnv es s) = report (.ignored c) (setEnv es s) := by
      simp [deliverCommand, hraw, hwindow]
    rw [hstep, hignored]
    rfl
  · have hqueued : deliverCommand raw (setEnv es s) = enqueue c (setEnv es s) := by
      simp [deliverCommand, hraw, hwindow]
    rw [hstep, hqueued]
    rfl

/-- Settles O44: a restart is the next step, and the reset value of `POS` is the reference position. -/
theorem restartResets : Obligations.RestartResets := by
  intro s es henv
  have hstep : step s = .next (restartState (setEnv es s)) := by
    simp [step, nextTurn, henv, accepts, react]
  rw [hstep, ← resetPos_eq_refPos]
  cases hstored : s.stored with
  | none => simp [restartState, State.resetWith, setEnv, hstored]
  | some v => simp [restartState, State.resetWith, setEnv, hstored]

/-- Settles O38: `Elapsed` is possible in every wait, and cancellation is the Controller's own turn. -/
theorem waitEnds : Obligations.WaitEnds := by
  intro s t d es hp
  refine ⟨fun henv hdomain => ?elapsed, fun hq henv => ?proceeding, fun hq henv => ?ending⟩
  case elapsed =>
    have hstep : step s = .next (waitElapsed t (setEnv es s)) := by
      simp [step, nextTurn, henv, accepts, hp, react]
    rw [hstep, waitElapsed, attempt_of_encodes (encodes_of_inDomain (s := setEnv es s) hdomain .btnStop)]
    rfl
  case proceeding =>
    rw [step, nextTurn_proceed henv (by simpa [canProceed, hp] using hq),
      ownTurn_of_wait (s := setEnv es s) hp hq]
    rfl
  case ending => rw [step, nextTurn_nil henv, ownTurn_of_wait hp hq]

/-! ### The placed words -/

/-- A command word is decoded whole. -/
theorem decodeTableWord_command (w : CommandWord) : decodeTableWord 16 w.toNat = (decode16 w).map Command.toInstr := by
  simp [decodeTableWord, w.isLt, decode]

/-- The 52 bits of a frame are decoded whole. -/
theorem decodeTableWord_frame (f : Frame) : decodeTableWord 56 f.toNat = decodeFrame f := by
  simp [decodeTableWord, f.isLt, decode]

/-- A placed command is taken from the head of `CMDQ` and run. -/
theorem step_placeCommand (c : Command) (s : State) :
    step (placeCommand c s) = exec c.toInstr { s with phase := .idle } :=
  step_of_ownTurn_idle (nextTurn_proceed rfl rfl) rfl rfl

theorem placeWord_command {w : CommandWord} {c : Command} (h : decode16 w = some c) (s : State) :
    placeWord 16 w.toNat s = placeCommand c s := by
  rw [placeWord, decodeTableWord_command, h]
  cases c <;> rfl

/-- A placed frame is run where it is at the Driver with an answer to come. -/
theorem step_placeFrame (ctx : Ctx) (b b' : Button) (r sn : BitVec 4) (e : BitVec 16) (k : BitVec 24) (s : State) :
    step (placeFrame ctx b (buttonNibble b') r sn e k s) =
      exec (frameInstr b' r sn e k) (placeFrame ctx b (buttonNibble b') r sn e k s) :=
  step_of_decodeFrame rfl rfl ((decodeFrame_eq_some_iff ..).mpr ⟨b', r, sn, e, k, rfl, rfl⟩)

theorem placeWord_frame {f : Frame} {b : Button} {r sn : BitVec 4} {e : BitVec 16} {k : BitVec 24}
    (h : decodeFrame f = some (frameInstr b r sn e k)) (s : State) :
    ∃ ctx, placeWord 56 f.toNat s = placeFrame ctx b (buttonNibble b) r sn e k s := by
  rw [placeWord, decodeTableWord_frame, h]
  cases b with
  | btnOpen => exact ⟨.cmdOpen, rfl⟩
  | btnStop => exact ⟨.cmdStop, rfl⟩
  | btnClose => exact ⟨.cmdClose, rfl⟩

/-- A 16-bit value that is no command is delivered to an idle Controller. -/
theorem placeWord_nonCommand {w : CommandWord} (h : decode16 w = none) (s : State) :
    placeWord 16 w.toNat s = setEnv (.deliver (.word w) :: s.env) (enterPhase .idle s) := by
  rw [placeWord, decodeTableWord_command, h]
  simp [placeNonRow, w.isLt]

/-- A frame of a reserved button is placed at the Driver. -/
theorem placeWord_reserved {f : Frame} (h : decodeFrame f = none) (s : State) :
    placeWord 56 f.toNat s = placeReserved f s := by
  rw [placeWord, decodeTableWord_frame, h]
  simp [placeNonRow, f.isLt]

/-- Settles O37: each kind of value is placed where the next step fetches, reports or refuses it. -/
theorem placedWordRuns : Obligations.PlacedWordRuns := by
  refine ⟨fun s w c h => ?command, fun s f i h => ?frame, fun s w h hroom => ?nonCommand, fun s f h => ?reserved⟩
  case command => rw [State.withFetchWord, placeWord_command h, step_placeCommand]
  case frame =>
    obtain ⟨b, r, sn, e, k, rfl, -⟩ := (decodeFrame_eq_some_iff f i).mp h
    obtain ⟨ctx, hplace⟩ := placeWord_frame h s
    rw [State.withFetchWord, hplace, step_placeFrame]
  case nonCommand =>
    rw [State.withFetchWord, placeWord_nonCommand h,
      invalidDeliveryReported (setEnv (.deliver (.word w) :: s.env) (enterPhase .idle s)) (.word w) s.env hroom rfl h]
    rfl
  case reserved =>
    rw [State.withFetchWord, placeWord_reserved h]
    simp [step, nextTurn, placeReserved, accepts, frameTurn, h]

/-! ### The frame instructions -/

/-- Settles O33: the frame's transmission asks for the Driver's answer and for its button's `TX` phase. -/
theorem frameOtherwiseInert : Obligations.FrameOtherwiseInert := by
  intro s b r sn e k h
  rw [exec_frameInstr]
  congr 1
  unfold transmitFrame
  split
  · rename_i ctx b' rep f a es hp henv
    rw [if_neg]
    rintro rfl
    rcases h with hanswer | hphase
    · exact hanswer a (by rw [henv]; rfl)
    · exact hphase ctx rep f hp
  · rfl

/-- At the top of the range `ADVANCE` halts the Controller (60_exceptions.md R225). -/
theorem advance_of_top {s : State} (h : s.code = 0xFFFFFFFF#32) (ctx : Ctx) (r : BurstResult) :
    advance ctx r s =
      { s with
        phase := .halted .codeExhausted
        moving := movingAfterHalt ctx s.moving
        evlog := s.evlog ++ [.codeExhausted 0xFFFFFFFF#32] } := by
  have hevent : LogEvent.codeExhausted s.code = .codeExhausted 0xFFFFFFFF#32 := congrArg _ h
  rw [advance, if_pos h, hevent]
  rfl

/-- Settles O32: the transmission is logged, and the next repeat, the write of the next code or the halt follows. -/
theorem frameTransmits : Obligations.FrameTransmits := by
  intro s b r sn e k ctx rep f a es hp henv word s' result
  have hexec : exec (frameInstr b r sn e k) s = .next (transmitted ctx b rep word a (setEnv es s)) := by
    rw [exec_frameInstr]
    simp only [transmitFrame, hp, henv, if_true]
    rfl
  have hend (h : a = .err ∨ rep = 6) : transmitted ctx b rep word a (setEnv es s) = advance ctx result s' := by
    cases a with
    | err => rfl
    | ok =>
      obtain rfl := h.resolve_left Answer.noConfusion
      rfl
  refine ⟨fun ha hrep hdomain => ?next, fun h hcode => ?ended, fun h hcode => ?exhausted⟩
  case next =>
    subst ha
    have hnext : transmitted ctx b rep word .ok (setEnv es s) = attempt ctx b (rep + 1) (returnTo ctx) s' := by
      simp only [transmitted, hrep, if_true]
      rfl
    rw [hexec, hnext, attempt_of_encodes (encodes_of_inDomain (s := s') hdomain b)]
  case ended =>
    rw [hexec, hend h, advance, if_neg hcode]
    rfl
  case exhausted =>
    rw [hexec, hend h, advance_of_top (s := s') hcode]
    rfl

/-! ### Startup -/

/-- Startup is the reference move's burst, from the code it loads. -/
theorem beginStartup_eq (read : Option U32) (s : State) :
    beginStartup read s = attempt .startupRef s.cfg.refButton.button 1 (returnTo .startupRef) (load read s) := rfl

/-- No answer is possible at `RESET`, so startup is the next step where one is listed first. -/
theorem step_reset_of_answer {s : State} {a : Answer} {es : List EnvEvent} (hp : s.phase = .reset)
    (henv : s.env = .driver a :: es) : step s = .next (settle s.env (beginStartup s.stored s)) :=
  step_of_ownTurn_reset (nextTurn_blocked henv (by simp [accepts, hp])) hp

/-- A failed burst begins with an answer of the Driver. -/
theorem failedAnswers_eq_cons (n : Nat) (a : Answer) (rest : List EnvEvent) :
    ∃ a' es, failedAnswers n a ++ rest = .driver a' :: es := by
  cases n with
  | zero => exact ⟨_, _, rfl⟩
  | succ n => exact ⟨_, _, rfl⟩

/-- The guard ends when the Timer elapses. -/
theorem settle_guard_elapsed {s : State} (hp : s.phase = .guard) (rest : List EnvEvent) :
    settle (.elapsed :: rest) s = { s with phase := .idle, env := rest } := by
  rw [settle_cons_of_accepts (by simp [hp, restingPhase]) EnvEvent.noConfusion (by simp [accepts, hp])]
  simp only [react, hp]
  rw [settle_of_resting rfl]
  rfl

/-- In the guard a delivered command is ignored, and the guard goes on. -/
theorem settle_guard_deliver {s : State} {raw : RawCommand} {c : Command} (hp : s.phase = .guard)
    (hraw : decodeRaw raw = some c) (hroom : hasRoom s = true) (rest : List EnvEvent) :
    settle (.deliver raw :: rest) s = settle rest (report (.ignored c) s) := by
  rw [settle_cons_of_accepts (by simp [hp, restingPhase]) EnvEvent.noConfusion (by exact hroom)]
  simp [react, deliverCommand, hraw, hp, startupWindow]

/-- The guard after a reference move that went through (70_reset_and_hazards.md R250). -/
def referenced (a : Answer) (s : State) : State :=
  let s₁ : State := afterBurst s.cfg.refButton.button a { s with code := s.stored.getD s.cfg.startCode }
  { s₁ with
    pos := refPos s.cfg
    known := true
    phase := .guard
    publog := s.publog ++ [snapshotOf s.cfg (refPos s.cfg)]
    evlog := s₁.evlog ++ [.done .reference .ok] }

/-- A startup whose burst goes through leads to the guard. -/
theorem step_startup {s : State} (hp : s.phase = .reset)
    (hdomain : inDomain s.cfg (s.stored.getD s.cfg.startCode) = true)
    (hcode : s.stored.getD s.cfg.startCode ≠ 0xFFFFFFFF#32) {a : Answer} {rest : List EnvEvent}
    (henv : s.env = burstAnswers a ++ rest) : step s = .next (settle rest (referenced a s)) := by
  have hstep := step_reset_of_answer hp henv
  rw [henv, beginStartup_eq, settle_burst (encodes_of_inDomain (s := load s.stored s) hdomain _) hcode] at hstep
  exact hstep

/-- Settles O45: the reference move goes through, and the guard ends or first ignores a command. -/
theorem startupCompletes : Obligations.StartupCompletes := by
  rintro s code a rest hp rfl hdomain hcode s₁ s₂
  refine ⟨fun henv => ?_, fun raw c hraw hroom henv => ?_⟩
  · rw [step_startup hp hdomain hcode henv, settle_guard_elapsed rfl]
    rfl
  · have hroom' : hasRoom (referenced a s) = true := (hasRoom_iff _).mpr hroom
    rw [step_startup hp hdomain hcode henv, settle_guard_deliver rfl hraw hroom', settle_guard_elapsed rfl]
    rfl

/-- Settles O46: the five facts are registers of the state that startup completes in. -/
theorem referenceMoveLeaves : Obligations.ReferenceMoveLeaves := by
  rintro s loaded a rest hp hmoving rfl hdomain hcode henv
  exact ⟨_, (startupCompletes s _ a rest hp rfl hdomain hcode).1 henv, rfl, rfl, hmoving, rfl, rfl, rfl⟩

/-- Settles O47: the reference move ends with its error, and the guard ends all the same. -/
theorem startupFailures : Obligations.StartupFailures := by
  rintro s code n a rest hp rfl
  refine ⟨fun hdomain henv => ?invalid, fun hn hdomain hcode henv => ?failed⟩
  case invalid =>
    have hturn : nextTurn s = ownTurn s := nextTurn_blocked henv (by simp [accepts, hp])
    rw [step_of_ownTurn_reset hturn hp, henv, beginStartup_eq,
      attempt_of_not_inDomain (s := load s.stored s) hdomain, settle_guard_elapsed rfl]
    rfl
  case failed =>
    obtain ⟨a', es, hfirst⟩ := failedAnswers_eq_cons n a (.elapsed :: rest)
    rw [step_reset_of_answer hp (henv.trans hfirst), henv, beginStartup_eq,
      settle_failedBurst (encodes_of_inDomain (s := load s.stored s) hdomain _) hcode _ n hn, settle_guard_elapsed rfl]
    rfl

/-! ### A full queue -/

/-- Where the next external move is not possible and there is no wait to cancel, a run stops, and the moves stay
listed. -/
theorem settle_cons_blocked {s : State} {p : Phase} {e : EnvEvent} (hphase : s.phase = p)
    (hp : ∀ t d, p ≠ .wait t d) (ha : accepts e s = false) (es : List EnvEvent) :
    settle (e :: es) s = setEnv (e :: es) s := by
  unfold settle
  split_ifs with hrest hmove
  · rfl
  · exact absurd (ha.symm.trans hmove) Bool.noConfusion
  · exact cancelIfQueued_of_phase fun t d h => hp t d (hphase.symm.trans h)

/-- Settles O42: the delivery is not possible, so the step is the Controller's own turn in every phase. -/
theorem fullQueueAdmitsNoDelivery : Obligations.FullQueueAdmitsNoDelivery := by
  intro s raw es cap henv hcap hfull
  have hno (u : State) (hcfg : u.cfg = s.cfg) (hcmdq : u.cmdq = s.cmdq) : accepts (.deliver raw) u = false := by
    simp [accepts, hasRoom, hcfg, hcmdq, hcap, hfull]
  have hturn : nextTurn s = ownTurn s := nextTurn_blocked henv (hno s rfl rfl)
  have hstart := step_of_ownTurn_reset hturn
  rw [beginStartup_eq, henv] at hstart
  refine ⟨fun hwaits => ?waiting, fun t d hp hq => ?cancelling, fun c q hp hq => ?dispatching,
    fun code hp hload hdomain => ?starting, fun code hp hload hdomain => ?invalid, fun reason hp => ?halted⟩
  case waiting => rw [step, hturn, ownTurn_of_waits hwaits]
  case cancelling => rw [step, hturn, ownTurn_of_wait hp hq]
  case dispatching => exact step_of_ownTurn_idle hturn hp hq
  case starting =>
    subst hload
    rw [hstart hp, attempt_of_encodes (encodes_of_inDomain (s := load s.stored s) hdomain _),
      settle_cons_blocked (by rfl) (fun _ _ => Phase.noConfusion) (hno _ (by rfl) (by rfl)), ← henv]
    rfl
  case invalid =>
    subst hload
    rw [hstart hp, attempt_of_not_inDomain (s := load s.stored s) hdomain,
      settle_cons_blocked (p := .guard) (by rfl) (fun _ _ => Phase.noConfusion) (hno _ (by rfl) (by rfl)), ← henv]
    rfl
  case halted => exact step_of_halted hp hturn

/-! ### Directions -/

/-- Settles O56: the button is that of the extreme on the target's side, whichever end is the open one. -/
theorem directionTowardTarget : Obligations.DirectionTowardTarget := by
  intro cfg pos t _ _ _
  rcases openPos_closedPos cfg with ⟨hopen, hclosed⟩ | ⟨hopen, hclosed⟩
  · refine ⟨fun hlt => ?_, fun hlt => ?_⟩
    · simp [dirTo, posOf, hopen, hlt]
    · simp [dirTo, posOf, hopen, hclosed, Nat.not_lt.mpr hlt.le]
  · refine ⟨fun hlt => ?_, fun hlt => ?_⟩
    · simp [dirTo, posOf, hopen, hclosed, Nat.not_lt.mpr hlt.le]
    · simp [dirTo, posOf, hopen, hlt]

end Sys2Proof.Proofs
